-- ==== Sys2Proof/Word.lean ====
section
/-! DEFINITION. The word types of the DMRP (spec 00_scope R11, R13). -/

namespace Sys2Proof

/-- One device register, 8 bits (R11, R72). -/
abbrev Byte := BitVec 8

/-- One host register or command word, 32 bits (R11, R100). -/
abbrev Word := BitVec 32

/-- A device bank: one index-port + data-port pair (R72). The finite set of banks is `Cfg.banks`. -/
abbrev Bank := Nat

/-- A device register offset, 0..255 (R11, R72). -/
abbrev Offset := BitVec 8

end Sys2Proof
end

