-- ==== Sys2Proof/Config.lean ====
section
/-! DEFINITION. The document's constants (R10), the index types of the tables (R18, R222) and the configuration
record `Cfg` (41_generation R150) with the other OPEN parameters of R12. Everything here is plain data; the function
tables of R150 are association lists, first match wins (log 21). -/

namespace Sys2Proof

/-! ## Constants fixed by the document (R10) -/

/-- `FREF`, the PLL reference in hertz (R10). -/
def fref : Nat := 14318180

/-- `HSTEPS`, steps of the horizontal factor (R10). -/
def hSteps : Nat := 4096

/-- `VSTEPS`, steps of the vertical factor (R10). -/
def vSteps : Nat := 2048

/-- `FIFO_QUANT` (R10). -/
def fifoQuant : Nat := 4

/-- `TIER_THRESH` (R10). -/
def tierThresh : List Nat := [1024, 1280, 1400, 1600]

/-- `BUFSHARE_HMIN` (R10): the destination width must exceed it. -/
def bufshareHmin : Nat := 1024

/-! ## Pipes and table indices -/

/-- The two pipes, index 0 (primary) and 1 (secondary) (R10 `NPIPE`, R317). -/
inductive Pipe where
  | p0
  | p1
  deriving DecidableEq, Repr, Inhabited

/-- One value per pipe. -/
structure PerPipe (α : Type) where
  primary : α
  secondary : α
  deriving DecidableEq, Repr, Inhabited

/-- The value of a pipe. -/
def PerPipe.get {α : Type} (v : PerPipe α) : Pipe → α
  | .p0 => v.primary
  | .p1 => v.secondary

/-- Replaces the value of one pipe. -/
def PerPipe.set {α : Type} (v : PerPipe α) (p : Pipe) (a : α) : PerPipe α :=
  match p with
  | .p0 => { v with primary := a }
  | .p1 => { v with secondary := a }

/-- The twelve timing parameters, in the order of R18 (`NPARAM` of R10). -/
inductive CrtcParam where
  | htotal | hdisplay | hblankStart | hblankEnd | hsyncStart | hsyncEnd
  | vtotal | vdisplay | vblankStart | vblankEnd | vsyncStart | vsyncEnd
  deriving DecidableEq, Repr, Inhabited

/-- The index order k = 0..11 of R18. -/
def CrtcParam.all : List CrtcParam :=
  [.htotal, .hdisplay, .hblankStart, .hblankEnd, .hsyncStart, .hsyncEnd,
   .vtotal, .vdisplay, .vblankStart, .vblankEnd, .vsyncStart, .vsyncEnd]

/-- One value per timing parameter. -/
structure Crtc (α : Type) where
  htotal : α
  hdisplay : α
  hblankStart : α
  hblankEnd : α
  hsyncStart : α
  hsyncEnd : α
  vtotal : α
  vdisplay : α
  vblankStart : α
  vblankEnd : α
  vsyncStart : α
  vsyncEnd : α
  deriving DecidableEq, Repr, Inhabited

/-- The value of one timing parameter. -/
def Crtc.get {α : Type} (t : Crtc α) : CrtcParam → α
  | .htotal => t.htotal
  | .hdisplay => t.hdisplay
  | .hblankStart => t.hblankStart
  | .hblankEnd => t.hblankEnd
  | .hsyncStart => t.hsyncStart
  | .hsyncEnd => t.hsyncEnd
  | .vtotal => t.vtotal
  | .vdisplay => t.vdisplay
  | .vblankStart => t.vblankStart
  | .vblankEnd => t.vblankEnd
  | .vsyncStart => t.vsyncStart
  | .vsyncEnd => t.vsyncEnd

/-- The twelve values as a function of the parameter. -/
def Crtc.ofFn {α : Type} (f : CrtcParam → α) : Crtc α :=
  { htotal := f .htotal, hdisplay := f .hdisplay, hblankStart := f .hblankStart, hblankEnd := f .hblankEnd,
    hsyncStart := f .hsyncStart, hsyncEnd := f .hsyncEnd, vtotal := f .vtotal, vdisplay := f .vdisplay,
    vblankStart := f .vblankStart, vblankEnd := f .vblankEnd, vsyncStart := f .vsyncStart,
    vsyncEnd := f .vsyncEnd }

/-- Replaces the value of one timing parameter. -/
def Crtc.set {α : Type} (t : Crtc α) (k : CrtcParam) (a : α) : Crtc α :=
  Crtc.ofFn fun j => if j = k then a else t.get j

/-- The four FIFO constants, in the order j = 0..3 of R222. -/
inductive FifoParam where
  | maxDepth | threshold | highThreshold | expireNum
  deriving DecidableEq, Repr, Inhabited

/-- The index order j = 0..3 of R222. -/
def FifoParam.all : List FifoParam := [.maxDepth, .threshold, .highThreshold, .expireNum]

/-- One value per FIFO constant. -/
structure PerFifo (α : Type) where
  maxDepth : α
  threshold : α
  highThreshold : α
  expireNum : α
  deriving DecidableEq, Repr, Inhabited

/-- The value of one FIFO constant. -/
def PerFifo.get {α : Type} (v : PerFifo α) : FifoParam → α
  | .maxDepth => v.maxDepth
  | .threshold => v.threshold
  | .highThreshold => v.highThreshold
  | .expireNum => v.expireNum

/-- The value of the path-select field that a command can set (R250); its device code is `PathEnc`. -/
inductive PathSel where
  | dst | src | none
  deriving DecidableEq, Repr, Inhabited

/-! ## The configuration record (R150) -/

/-- A RegisterField `(bank, off, lo, hi)` (R130). -/
structure RegField where
  bank : Bank
  off : Offset
  lo : Nat
  hi : Nat
  deriving DecidableEq, Repr

/-- A RegisterFieldList (R131), low bits first. -/
abbrev FieldList := List RegField

/-- A literal table (R132): each field with its literal byte. -/
abbrev LitTable := List (RegField × Byte)

/-- A RegisterFieldList with its declared width (R131). -/
structure SizedList where
  fields : FieldList
  width : Nat
  deriving DecidableEq, Repr

/-- `timingList g p k` with its declared width `wT`, and `timingForm g p k = (div, bias)` (R150, R172). -/
structure TimingEntry where
  list : SizedList
  div : Nat
  bias : Int
  deriving DecidableEq, Repr

/-- The four FIFOConstants, unquantized (R150). -/
abbrev FifoConsts := PerFifo Nat

/-- The key `(p, tier, depth, memtier)` of `fifoTable` (R150, R223). -/
structure FifoKey where
  pipe : Pipe
  tier : Nat
  depth : BitVec 8
  memTier : BitVec 8
  deriving DecidableEq, Repr

/-- A PLLConfigEntry (R150, R190). -/
structure PllEntry where
  mult : Nat
  div : Nat
  shift : Nat
  deriving DecidableEq, Repr

/-- The three PLL encodings (R193). -/
inductive PllEnc where
  | A | B | C
  deriving DecidableEq, Repr

/-- One device register, `(bank, off)`. -/
structure RegAddr where
  bank : Bank
  off : Offset
  deriving DecidableEq, Repr

/-- One bit of one device register, `(bank, off, bit)` (R150). -/
structure BitAddr where
  bank : Bank
  off : Offset
  bit : Nat
  deriving DecidableEq, Repr

/-- The PLL configuration of a generation (R150). -/
structure PllCfg where
  table : List PllEntry
  enc : PllEnc
  rst : BitAddr
  rstOn : Bool
  clkEn : PerPipe BitAddr
  clkOn : Bool
  divRegs : PerPipe (List RegAddr)
  syncPol : RegAddr
  syncMask : Byte
  deriving DecidableEq, Repr

/-- `pathEnc`: the device code of each path-select value (R150). -/
structure PathEnc where
  dstCode : Nat
  srcCode : Nat
  noneCode : Nat
  deriving DecidableEq, Repr

/-- The scaler registers of a generation (R150). -/
structure ScalerCfg where
  hFac : FieldList
  vFac : FieldList
  hEn : FieldList
  vEn : FieldList
  hDir : FieldList
  vDir : FieldList
  bufShare : FieldList
  path : FieldList
  pathEnc : PathEnc
  deriving DecidableEq, Repr

/-- Everything a generation bundles (R150, R154). -/
structure GenTables where
  timing : PerPipe (Crtc TimingEntry)
  lit : List LitTable
  fifoList : PerPipe (PerFifo SizedList)
  fifoTable : List (FifoKey × FifoConsts)
  pll : Option PllCfg
  scaler : ScalerCfg
  deriving DecidableEq, Repr

/-- `synthSrc : Timing → Timing` (R150, R176) as plain data: the spec's default, or any other function, which the
opaque constant `customSynthSrc` stands for (DESIGN CHOICE, log 9). -/
inductive SynthSrc where
  | byClamp
  | custom (n : Nat)
  deriving DecidableEq, Repr

/-- The synthetic source timing of a configuration that replaces the default of R176. Uninterpreted: nothing is known of
it, so a claim about it holds for every function (DESIGN CHOICE, log 9). -/
opaque customSynthSrc : Nat → Crtc Nat → Crtc Nat

/-- The configuration (R150) and `HOST_BASE` (R12). A generation is its index in `gens` (R151, log 15). -/
structure Cfg where
  banks : List Bank
  gens : List GenTables
  resolve : List (BitVec 16 × Nat)
  scalerPipe : Pipe
  tierInclusive : Bool
  tPllWait : Nat
  synthSrc : SynthSrc
  midGen32 : Option Nat
  hostBase : Nat
  deriving DecidableEq, Repr

end Sys2Proof
end

