-- ==== Sys2Proof/Machine/Fixture.lean ====
section
/-! DEFINITION. XCFG, the example configuration of 95_test_vectors Part 1. It is the spec's own illustration, not a
source table: no statement about the machine rests on it. State.reset carries it (DESIGN CHOICE, log 2) and the tests
run on it. -/

namespace Sys2Proof.Machine.Fixture

/-- Bank `CR` of XCFG. -/
def bankCR : Bank := 0

/-- Bank `SR` of XCFG. -/
def bankSR : Bank := 1

/-- A field of bank CR. -/
def cr (off : Nat) (lo hi : Nat) : RegField := ⟨bankCR, BitVec.ofNat 8 off, lo, hi⟩

/-- A field of bank SR. -/
def sr (off : Nat) (lo hi : Nat) : RegField := ⟨bankSR, BitVec.ofNat 8 off, lo, hi⟩

/-- A 12-bit timing list over two CR registers. -/
def pair12 (off : Nat) : SizedList := ⟨[cr off 0 7, cr (off + 1) 0 3], 12⟩

/-- Pipe 0 of table 1.2. -/
def timing0 : Crtc TimingEntry :=
  { htotal := ⟨⟨[cr 0x00 0 7, cr 0x36 3 3], 9⟩, 8, 5⟩
    hdisplay := ⟨pair12 0x42, 8, 1⟩
    hblankStart := ⟨pair12 0x44, 8, 1⟩
    hblankEnd := ⟨pair12 0x46, 8, 1⟩
    hsyncStart := ⟨pair12 0x48, 8, 0⟩
    hsyncEnd := ⟨pair12 0x4A, 8, 0⟩
    vtotal := ⟨pair12 0x4C, 1, 2⟩
    vdisplay := ⟨pair12 0x4E, 1, 1⟩
    vblankStart := ⟨pair12 0x50, 1, 1⟩
    vblankEnd := ⟨pair12 0x52, 1, 1⟩
    vsyncStart := ⟨pair12 0x54, 1, 0⟩
    vsyncEnd := ⟨pair12 0x56, 1, 0⟩ }

/-- Pipe 1 of table 1.2. -/
def timing1 : Crtc TimingEntry :=
  { htotal := ⟨pair12 0x80, 1, 1⟩
    hdisplay := ⟨pair12 0x82, 1, 1⟩
    hblankStart := ⟨pair12 0x84, 1, 1⟩
    hblankEnd := ⟨pair12 0x86, 1, 1⟩
    hsyncStart := ⟨pair12 0x88, 1, 1⟩
    hsyncEnd := ⟨pair12 0x8A, 1, 1⟩
    vtotal := ⟨pair12 0x8C, 1, 1⟩
    vdisplay := ⟨pair12 0x8E, 1, 1⟩
    vblankStart := ⟨pair12 0x90, 1, 1⟩
    vblankEnd := ⟨pair12 0x92, 1, 1⟩
    vsyncStart := ⟨pair12 0x94, 1, 1⟩
    vsyncEnd := ⟨pair12 0x96, 1, 1⟩ }

/-- The FIFO lists of 1.4. -/
def fifoLists : PerPipe (PerFifo SizedList) :=
  { primary := ⟨⟨[sr 0x17 0 7], 8⟩, ⟨[sr 0x16 0 6], 7⟩, ⟨[sr 0x18 0 6], 7⟩, ⟨[sr 0x22 0 5], 6⟩⟩
    secondary := ⟨⟨[sr 0x27 0 7], 8⟩, ⟨[sr 0x26 0 6], 7⟩, ⟨[sr 0x28 0 6], 7⟩, ⟨[sr 0x29 0 5], 6⟩⟩ }

/-- LIT0 of 1.3. -/
def lit0 : LitTable := [(sr 0x15 0 7, 0xA2#8), (sr 0x1A 2 3, 0x08#8)]

/-- What PllCfg A and PllCfg B of 1.5 share. -/
def pllCfg (enc : PllEnc) (table : List PllEntry) (regs : PerPipe (List RegAddr)) : PllCfg :=
  { table := table
    enc := enc
    rst := ⟨bankSR, 0x40#8, 1⟩
    rstOn := true
    clkEn := ⟨⟨bankSR, 0x41#8, 0⟩, ⟨bankSR, 0x41#8, 1⟩⟩
    clkOn := true
    divRegs := regs
    syncPol := ⟨bankSR, 0x12#8⟩
    syncMask := 0xC0#8 }

/-- PllCfg A with table TA (1.5). -/
def pllA : PllCfg :=
  pllCfg .A [⟨60, 9, 1⟩, ⟨88, 12, 0⟩, ⟨70, 5, 2⟩]
    { primary := [⟨bankSR, 0x46#8⟩, ⟨bankSR, 0x47#8⟩], secondary := [⟨bankSR, 0x4A#8⟩, ⟨bankSR, 0x4B#8⟩] }

/-- PllCfg B with table TB (1.5). -/
def pllB : PllCfg :=
  pllCfg .B [⟨100, 7, 2⟩, ⟨50, 7, 1⟩, ⟨150, 9, 2⟩, ⟨90, 4, 3⟩, ⟨120, 12, 0⟩]
    { primary := [⟨bankSR, 0x44#8⟩, ⟨bankSR, 0x45#8⟩, ⟨bankSR, 0x46#8⟩]
      secondary := [⟨bankSR, 0x4A#8⟩, ⟨bankSR, 0x4B#8⟩, ⟨bankSR, 0x4C#8⟩] }

/-- The scaler of 1.6. -/
def scaler : ScalerCfg :=
  { hFac := [cr 0xA0 0 7, cr 0xA1 0 3]
    vFac := [cr 0xA2 0 7, cr 0xA3 0 2]
    hEn := [cr 0xA3 7 7]
    vEn := [cr 0xA3 6 6]
    hDir := [cr 0xA3 5 5]
    vDir := [cr 0xA3 4 4]
    bufShare := [cr 0xA4 0 0]
    path := [cr 0xA4 1 1]
    pathEnc := ⟨0, 1, 0⟩ }

/-- A generation of XCFG: the lists of 1.2, 1.4 and 1.6 are the same for all three. -/
def gen (lit : List LitTable) (fifoTable : List (FifoKey × FifoConsts)) (pll : Option PllCfg) : GenTables :=
  { timing := ⟨timing0, timing1⟩
    lit := lit
    fifoList := fifoLists
    fifoTable := fifoTable
    pll := pll
    scaler := scaler }

/-- Generation GA (index 0). -/
def genA : GenTables := gen [] [(⟨.p0, 0, 32#8, 0#8⟩, ⟨128, 96, 80, 32⟩)] (some pllA)

/-- Generation GB (index 1). -/
def genB : GenTables :=
  gen [lit0]
    [(⟨.p0, 1, 32#8, 0#8⟩, ⟨384, 328, 296, 128⟩), (⟨.p0, 0, 32#8, 0#8⟩, ⟨384, 328, 296, 64⟩),
     (⟨.p0, 0, 16#8, 0#8⟩, ⟨256, 202, 180, 30⟩), (⟨.p1, 1, 32#8, 0#8⟩, ⟨192, 160, 140, 64⟩)]
    (some pllB)

/-- Generation GC (index 2): no PLL table, no FIFO entry. -/
def genC : GenTables := gen [] [] none

/-- XCFG (95_test_vectors Part 1); `hostBase` 0 is the model's (DESIGN CHOICE, log 4). -/
def xcfg : Cfg :=
  { banks := [bankCR, bankSR]
    gens := [genA, genB, genC]
    resolve := [(0x0001#16, 0), (0x0002#16, 1), (0x0004#16, 2)]
    scalerPipe := .p1
    tierInclusive := true
    tPllWait := 20000
    synthSrc := .byClamp
    midGen32 := some 1
    hostBase := 0 }

end Sys2Proof.Machine.Fixture
end

