-- ==== Sys2Proof/Syntax.lean ====
section
/-! DEFINITION. The nine commands of 30_encoding R104, their operands as the fields of R101 give them. -/

namespace Sys2Proof

/-- SEL of PROGTIM (R105): 0 MODE, 1 SYNTH. -/
inductive TimingSel where
  | mode | synth
  deriving DecidableEq, Repr

/-- SEL of COMPSCALE and PROGSCALE (R105, R241): 0 EXPAND, 1 SHRINK. -/
inductive ScaleSel where
  | expand | shrink
  deriving DecidableEq, Repr

/-- One command per row of spec/opcode_table.json (R104). -/
inductive Instr where
  /-- INIT: bind a pipe to the generation of the latched chip id (R160). -/
  | init (p : Pipe)
  /-- WRLIT: write one fixed initialization table (R140). -/
  | wrlit (p : Pipe) (imm : BitVec 8)
  /-- WRVAL: write VALUE through one field list (R139); legal for `imm` below 16 (R106). -/
  | wrval (p : Pipe) (imm : BitVec 8)
  /-- PROGTIM: program the twelve timing parameters of one pipe (R171). -/
  | progtim (p : Pipe) (sel : TimingSel)
  /-- SYNPLL: choose and program the pixel-clock PLL of one pipe (R197). -/
  | synpll (p : Pipe)
  /-- TUNEFIFO: select and write the FIFO constants of one pipe (R223). -/
  | tunefifo (p : Pipe)
  /-- COMPSCALE: compute and write the scale factors (R246). -/
  | compscale (sel : ScaleSel)
  /-- SETPATH: set the path-select field (R250). -/
  | setpath (v : PathSel)
  /-- PROGSCALE: scale factors and timings in the required order (R260). -/
  | progscale (sel : ScaleSel)
  deriving DecidableEq, Repr

end Sys2Proof
end

