-- ==== Sys2Proof/Machine/State.lean ====
section
/-! DEFINITION. The state of 10_state R30, plain data, every piece of it (INVENTORY.md, '## State'), the faults and
refusals of a step, and the machine right after reset (R54, R330). -/

namespace Sys2Proof.Machine

/-- The command errors of R300, codes 1 to 6. They are completions, not faults. -/
inductive CmdError where
  /-- Code 1: no generation, PLL table or FIFO entry for the request. -/
  | unsupportedDevice
  /-- Code 2: a zero size, or a destination below 2 under EXPAND. -/
  | invalidGeometry
  /-- Code 3: the word is not a legal encoding, or its IMM names no list or table. -/
  | illegalCommand
  /-- Code 4: the pipe the command uses has no bound generation. -/
  | notInitialized
  /-- Code 5: a timing load that the path-select state forbids. -/
  | pathMismatch
  /-- Code 6: INIT on a bound pipe. -/
  | alreadyInitialized
  deriving DecidableEq, Repr

/-- What STATUS.ERR reports of the last completed command (R300); codes 7 to 15 are reported by none. -/
inductive Verdict where
  | ok
  | error (e : CmdError)
  deriving DecidableEq, Repr

/-- The Engine's phase (R50). -/
inductive Phase where
  | idle | busy
  deriving DecidableEq, Repr

/-- The path-select mirror (R49). -/
inductive PathMirror where
  | dst | src | none | unknown
  deriving DecidableEq, Repr

/-- The argument registers (R35), at their used widths (R33). -/
structure ArgRegs where
  chipId : BitVec 16
  memTier : BitVec 8
  depth : BitVec 8
  pitch : BitVec 32
  value : BitVec 32
  dT : Crtc (BitVec 16)
  dClockKhz : BitVec 32
  dRefresh : BitVec 16
  dFlags : BitVec 1
  sT : Crtc (BitVec 16)
  deriving DecidableEq, Repr

/-- PLL_INDEX, PLL_CODE and PLL_FREQ (R41). -/
structure PllResult where
  index : BitVec 16
  code : BitVec 24
  freq : BitVec 32
  deriving DecidableEq, Repr

/-- The stored host registers (R33). GEN0, GEN1, SCALE_*, PATH and STATUS.BUSY are views of the state below (R38,
R40, R43, R44). -/
structure HostRegs where
  cmd : Word
  done : Bool
  ovr : Bool
  err : Verdict
  args : ArgRegs
  pll : PllResult
  fifo : PerFifo (BitVec 16)
  deriving DecidableEq, Repr

/-- The latched command word and argument snapshot (R36). -/
structure Latch where
  word : Word
  args : ArgRegs
  deriving DecidableEq, Repr

/-- The ScalingState mirror (R48). -/
structure ScalingState where
  hshr : Bool
  vshr : Bool
  hexp : Bool
  vexp : Bool
  bufshare : Bool
  hfac : BitVec 32
  vfac : BitVec 32
  deriving DecidableEq, Repr

/-- A device bus event (R52, R73, R75). -/
inductive Event where
  | rd (b : Bank) (o : Offset) (v : Byte)
  | wr (b : Bank) (o : Offset) (v : Byte)
  | wait (microseconds : Nat)
  deriving DecidableEq, Repr

/-- The device register space and the trace of the events issued on it (R30, R72, R73). `dev` lists
(address, byte) in rising order, a byte equal to what an unlisted address reads as is not listed. -/
structure Bus where
  dev : List Host.Cell
  trace : List Event
  deriving DecidableEq, Repr

/-- What acts next from outside, or the Engine's turn (R312; DESIGN CHOICE, log 6). -/
inductive Input where
  /-- `MemRead(addr, width)` (R70). -/
  | hostRead (addr width : Nat)
  /-- `MemWrite(addr, width, v)` (R70). -/
  | hostWrite (addr width : Nat) (v : Word)
  /-- The Engine's turn: `Execute` when BUSY (R304). -/
  | engine
  /-- The platform asserts reset (R330). -/
  | reset
  /-- The surrounding software writes a device register (R343). -/
  | extDevWrite (b : Bank) (o : Offset) (v : Byte)
  deriving DecidableEq, Repr

/-- What a Host read returned: the window offset and the register's value (model's own, log 17). -/
structure Reply where
  off : Nat
  value : Word
  deriving DecidableEq, Repr

/-- A completed command; no command for an illegal word (model's own, log 17). -/
structure Completion where
  cmd : Option Instr
  verdict : Verdict
  deriving DecidableEq, Repr

/-- Why the machine stops with a fault. -/
inductive Fault where
  /-- Raised by a reset input in BUSY (R331, `ResetWhileBusy`). Safe: the run has no step past it. -/
  | resetWhileBusy
  /-- Raised by an ExtDevWrite in BUSY, for which the model has no move (R343, I18). The Host's duty; the stop itself
  is safe, the absent interleaving is the spec's (log 12). -/
  | extDevWriteWhileBusy
  /-- Raised by an ExtDevWrite to a bank that is not in `Cfg.Bank`: no such address (R72). Safe (log 13). -/
  | noSuchBank
  /-- Raised by a command run with an empty latch, which no BUSY state reached from reset has. Safe (log 10). -/
  | emptyLatch
  /-- Raised by a command that looks up a generation or PLL entry that the admission checks of R152 guarantee, in a
  state that no step reaches. Safe (log 16). -/
  | unadmittedTable
  deriving DecidableEq, Repr

/-- Why a step has no meaning. -/
inductive Refusal where
  /-- Raised by an arm of exec that has no meaning yet. Safe. -/
  | notModelled (mnemonic : String)
  /-- Raised by a Host access that the window does not decode (R71, I14). Safe. -/
  | hostUndecoded
  /-- Raised by a step under a configuration that fails an admission check (R152, I2). Safe. -/
  | cfgNotAdmitted
  deriving DecidableEq, Repr

/-- The DMRP (R30), its configuration (a parameter that no step changes, log 1) and the model's own fields `inputs`,
`replies` and `history` (log 6, 17). -/
structure State where
  cfg : Cfg
  hr : HostRegs
  phase : Phase
  latch : Option Latch
  gen : PerPipe (Option Nat)
  scale : ScalingState
  path : PathMirror
  bus : Bus
  inputs : List Input
  replies : List Reply
  history : List Completion
  deriving DecidableEq, Repr

/-- Every argument register 0 (R33). -/
def ArgRegs.reset : ArgRegs :=
  { chipId := 0, memTier := 0, depth := 0, pitch := 0, value := 0, dT := Crtc.ofFn fun _ => 0, dClockKhz := 0,
    dRefresh := 0, dFlags := 0, sT := Crtc.ofFn fun _ => 0 }

/-- The Reset column of R33. -/
def HostRegs.reset : HostRegs :=
  { cmd := 0, done := false, ovr := false, err := .ok, args := ArgRegs.reset, pll := ⟨0, 0, 0⟩,
    fifo := ⟨0, 0, 0, 0⟩ }

/-- Every flag false, both factors 0 (R48). -/
def ScalingState.reset : ScalingState := ⟨false, false, false, false, false, 0, 0⟩

/-- The machine right after the power-on reset (R54, R330). The configuration is XCFG (log 2), `DEV0` is 0
everywhere (log 3), and no input is pending (log 8). -/
def State.reset : State :=
  { cfg := Fixture.xcfg
    hr := HostRegs.reset
    phase := .idle
    latch := none
    gen := ⟨none, none⟩
    scale := ScalingState.reset
    path := .unknown
    bus := ⟨[], []⟩
    inputs := []
    replies := []
    history := [] }

end Sys2Proof.Machine
end

