-- ==== Sys2Proof/Machine/Ops.lean ====
section
/-! DEFINITION. The named operations every command is made of: device memory, the bus primitives of R73 to R75 and
R133, the field-list writes of R134, R137 and R138, the updates of the state, and the completion of a command (R304)
with `raise E` (R16, R303) and `finish`. The DMRP has no trap entry and no trap return (R309, R310): a command that
raises an error completes, and that completion is the one shared operation `Machine.runCommand`. -/

namespace Sys2Proof

/-! ## Fields and pipes -/

/-- `n(f) = hi - lo + 1` (R130). -/
def RegField.width (f : RegField) : Nat := f.hi - f.lo + 1

/-- `mask(lo, hi)` of a field (R13). -/
def RegField.mask (f : RegField) : Byte := BitVec.ofNat 8 ((2 ^ f.width - 1) <<< f.lo)

/-- `W(L)` (R131). -/
def fieldsWidth : FieldList → Nat
  | [] => 0
  | f :: fs => f.width + fieldsWidth fs

/-- The bits of `v` that a field takes with the cursor at `cur`, moved to its place (R134). -/
def RegField.slice (f : RegField) (cur v : Nat) : Byte := BitVec.ofNat 8 (((v >>> cur) % 2 ^ f.width) <<< f.lo)

/-- The other pipe, `1 - p`. -/
def Pipe.other : Pipe → Pipe
  | .p0 => .p1
  | .p1 => .p0

end Sys2Proof

namespace Sys2Proof.Machine

/-! ## Device memory -/

/-- What a device register that nothing has written holds: `DEV0` is 0 where the state lists no byte (log 3). -/
def Memory.unlisted : Byte := 0

/-- The byte at an address. -/
def Memory.read : List Host.Cell → Nat → Byte
  | [], _ => Memory.unlisted
  | (k, v) :: m, a => if k = a then v else Memory.read m a

/-- Removes every entry of an address. -/
def Memory.drop : List Host.Cell → Nat → List Host.Cell
  | [], _ => []
  | (k, v) :: m, a => if k = a then Memory.drop m a else (k, v) :: Memory.drop m a

/-- Puts an entry before the first greater address. -/
def Memory.place : List Host.Cell → Nat → Byte → List Host.Cell
  | [], a, b => [(a, b)]
  | (k, v) :: m, a, b => if a < k then (a, b) :: (k, v) :: m else (k, v) :: Memory.place m a b

/-- Writes one byte; a byte equal to what an unlisted address reads as is not listed. -/
def Memory.write (m : List Host.Cell) (a : Nat) (b : Byte) : List Host.Cell :=
  if b = Memory.unlisted then Memory.drop m a else Memory.place (Memory.drop m a) a b

/-- The canonical form: addresses strictly rising, no entry equal to what an unlisted address reads as. -/
abbrev Memory.wf (m : List Host.Cell) : Prop :=
  (m.map Prod.fst).Pairwise (· < ·) ∧ ∀ c ∈ m, c.2 ≠ Memory.unlisted

/-- The memory address of a device register: 256 offsets a bank (R72). -/
def devAddr (b : Bank) (o : Offset) : Nat := 256 * b + o.toNat

/-! ## Bus primitives -/

/-- `dev(b, o)` without an event (R72). -/
def Bus.peek (bus : Bus) (b : Bank) (o : Offset) : Byte := Memory.read bus.dev (devAddr b o)

/-- Appends one event to the trace (R52). -/
def Bus.emit (bus : Bus) (e : Event) : Bus := { bus with trace := bus.trace ++ [e] }

/-- The event of `DevRead(b, o)` (R73); the byte is `bus.peek b o`. -/
def Bus.devRead (bus : Bus) (b : Bank) (o : Offset) : Bus := bus.emit (.rd b o (bus.peek b o))

/-- Stores a byte with no event: what `ExtDevWrite` does (R343). -/
def Bus.poke (bus : Bus) (b : Bank) (o : Offset) (v : Byte) : Bus :=
  { bus with dev := Memory.write bus.dev (devAddr b o) v }

/-- `DevWrite(b, o, v)` (R73). -/
def Bus.devWrite (bus : Bus) (b : Bank) (o : Offset) (v : Byte) : Bus := (bus.poke b o v).emit (.wr b o v)

/-- `Wait(t)` (R75). -/
def Bus.wait (bus : Bus) (t : Nat) : Bus := bus.emit (.wait t)

/-- The merge of R133: the bits of `m` from `v`, the others from `t`. -/
def merge (t m v : Byte) : Byte := (t &&& ~~~m) ||| (v &&& m)

/-- `DevRMW(b, o, m, v)`: always exactly two events (R133). -/
def Bus.devRmw (bus : Bus) (b : Bank) (o : Offset) (m v : Byte) : Bus :=
  (bus.devRead b o).devWrite b o (merge (bus.peek b o) m v)

/-! ## Field lists -/

/-- The loop of R134 from a cursor position. -/
def writeFrom (cur v : Nat) : FieldList → Bus → Bus
  | [], bus => bus
  | f :: fs, bus => writeFrom (cur + f.width) v fs (bus.devRmw f.bank f.off f.mask (f.slice cur v))

/-- `WriteValue(L, v)` (R134). -/
def writeValue (l : FieldList) (v : Nat) (bus : Bus) : Bus := writeFrom 0 v l bus

/-- `WriteLiteral(T)` (R137). -/
def writeLiteral : LitTable → Bus → Bus
  | [], bus => bus
  | (f, byte) :: t, bus => writeLiteral t (bus.devRmw f.bank f.off f.mask byte)

/-- The bits of a field as they stand (R138). -/
def fieldNow (f : RegField) (bus : Bus) : Nat := ((bus.peek f.bank f.off).toNat >>> f.lo) % 2 ^ f.width

/-- `ReadValue(L)`, low field first (R138). -/
def readValue : FieldList → Bus → Nat
  | [], _ => 0
  | f :: fs, bus => fieldNow f bus + 2 ^ f.width * readValue fs bus

/-! ## Updates of the state -/

/-- Applies a device operation. -/
def State.onBus (s : State) (f : Bus → Bus) : State := { s with bus := f s.bus }

/-- `gen[p] <- some g` (R160). -/
def State.bindGen (s : State) (p : Pipe) (g : Nat) : State := { s with gen := s.gen.set p (some g) }

/-- The PLL result registers (R41). -/
def State.setPll (s : State) (r : PllResult) : State := { s with hr := { s.hr with pll := r } }

/-- The FIFO result registers (R42). -/
def State.setFifo (s : State) (r : PerFifo (BitVec 16)) : State := { s with hr := { s.hr with fifo := r } }

/-- `scale <- ...` (R48). -/
def State.setScale (s : State) (sc : ScalingState) : State := { s with scale := sc }

/-- `path <- v` (R49). -/
def State.setMirror (s : State) (p : PathMirror) : State := { s with path := p }

/-- The STATUS update of a completion (R304): ERR, DONE set, BUSY cleared. The latch keeps its contents, which are
meaningful only in BUSY (R36, log 10). -/
def State.retire (s : State) (cmd : Option Instr) (v : Verdict) : State :=
  { s with
    hr := { s.hr with err := v, done := true }
    phase := .idle
    history := s.history ++ [⟨cmd, v⟩] }

/-- Acceptance of a command word in IDLE (R36, R37). -/
def State.accept (s : State) (w : Word) : State :=
  { s with
    hr := { s.hr with cmd := w, done := false }
    latch := some ⟨w, s.hr.args⟩
    phase := .busy }

/-! ## Running a command -/

/-- Why a command rule ends before `finish`: `raise E` (R16), or a stop of the model. -/
inductive Stop where
  | raise (e : CmdError)
  | fault (f : Fault)
  deriving DecidableEq, Repr

/-- A command rule's outcome: the state with its events and updates, or why it ended (R304). -/
abbrev Run := Except Stop State

/-- `raise E` (R16). -/
def raise {α : Type} (e : CmdError) : Except Stop α := .error (.raise e)

/-- The completion step (R304): on an error nothing is applied but the STATUS update. -/
def complete (cmd : Option Instr) (s : State) : Run → Host.Outcome State Fault Refusal
  | .ok t => .next (t.retire cmd .ok)
  | .error (.raise e) => .next (s.retire cmd (.error e))
  | .error (.fault f) => .fault f

/-- Runs the rule of one command on the latched arguments and completes it (R304). -/
def runCommand (i : Instr) (s : State) (rule : ArgRegs → Run) : Host.Outcome State Fault Refusal :=
  match s.latch with
  | none => .fault .emptyLatch
  | some l => complete (some i) s (rule l.args)

/-- The tables of a generation index, which admission guarantees (R152, log 16). -/
def State.tablesAt (s : State) (g : Nat) : Except Stop GenTables :=
  match s.cfg.gens[g]? with
  | some t => .ok t
  | none => .error (.fault .unadmittedTable)

/-- Runs a rule with the tables of `gen[p]`, or raises NotInitialized (R161). -/
def withTables (s : State) (p : Pipe) (rule : GenTables → Run) : Run :=
  match s.gen.get p with
  | none => raise .notInitialized
  | some g =>
    match s.tablesAt g with
    | .ok t => rule t
    | .error e => .error e

end Sys2Proof.Machine
end

