-- ==== Sys2Proof/Machine/Operands.lean ====
section
/-! DEFINITION. The operand forms: what a command takes from its IMM or SEL, from the latched argument registers
(R36, R103) and from the tables of its generation. -/

namespace Sys2Proof

/-! ## Timings (R170) -/

/-- A Timing: twelve naturals (R170). -/
abbrev Timing := Crtc Nat

/-- A timing read from twelve 16-bit registers (R170). -/
def timingOf (r : Crtc (BitVec 16)) : Timing := Crtc.ofFn fun k => (r.get k).toNat

/-- The default synthetic source timing (R176): each blank and sync edge clamped to its axis total. -/
def synthByClamp (s : Timing) : Timing :=
  { htotal := s.htotal
    hdisplay := s.hdisplay
    hblankStart := min s.hblankStart s.htotal
    hblankEnd := min s.hblankEnd s.htotal
    hsyncStart := min s.hsyncStart s.htotal
    hsyncEnd := min s.hsyncEnd s.htotal
    vtotal := s.vtotal
    vdisplay := s.vdisplay
    vblankStart := min s.vblankStart s.vtotal
    vblankEnd := min s.vblankEnd s.vtotal
    vsyncStart := min s.vsyncStart s.vtotal
    vsyncEnd := min s.vsyncEnd s.vtotal }

/-- `Cfg.synthSrc` (R150, R176; log 9). -/
def SynthSrc.apply : SynthSrc → Timing → Timing
  | .byClamp, s => synthByClamp s
  | .custom n, s => customSynthSrc n s

/-- `tier(h)`, the number of thresholds that `h` reaches (inclusive) or exceeds (R221). -/
def tier (inclusive : Bool) (h : Nat) : Nat :=
  tierThresh.countP fun t => if inclusive then decide (t ≤ h) else decide (t < h)

/-- `Cfg.fifoTable(g)(key)` (R150). -/
def GenTables.fifoAt (t : GenTables) (key : FifoKey) : Option FifoConsts :=
  (t.fifoTable.find? fun row => row.1 = key).map Prod.snd

/-! ## Chip identifiers (R153) -/

/-- `Resolve(chipId)` (R153): the generation's index. -/
def Cfg.resolveChip (c : Cfg) (chipId : BitVec 16) : Option Nat :=
  (c.resolve.find? fun row => row.1 = chipId).map Prod.snd

/-- `pathEnc(v)` (R150). -/
def PathEnc.code (e : PathEnc) : PathSel → Nat
  | .dst => e.dstCode
  | .src => e.srcCode
  | .none => e.noneCode

end Sys2Proof

namespace Sys2Proof.Machine

/-! ## IMM: field lists and literal tables (R106) -/

/-- What a WRVAL IMM names (R106). -/
inductive ListSel where
  | timing (k : CrtcParam)
  | fifo (j : FifoParam)
  deriving DecidableEq, Repr

/-- The sixteen field lists in IMM order: 0..11 timing (R18), 12..15 FIFO (R222). -/
def ListSel.all : List ListSel := CrtcParam.all.map .timing ++ FifoParam.all.map .fifo

/-- The list that an IMM names; none for 16 and above (R106). -/
def ListSel.ofImm (imm : BitVec 8) : Option ListSel := ListSel.all[imm.toNat]?

/-- `Cfg.timingList(g, p, k)` or `Cfg.fifoList(g, p, j)` (R139). -/
def listOf (t : GenTables) (p : Pipe) : ListSel → FieldList
  | .timing k => ((t.timing.get p).get k).list.fields
  | .fifo j => ((t.fifoList.get p).get j).fields

/-! ## PLL target (R191) -/

/-- `targetHz = x[D_CLOCK_KHZ] * 1000` (R191). -/
def targetHz (x : ArgRegs) : Nat := x.dClockKhz.toNat * 1000

/-! ## FIFO key (R220, R221) -/

/-- The key of TUNEFIFO: pipe, tier of D_T[1], DEPTH, MEMTIER (R220, R223). -/
def fifoKey (inclusive : Bool) (p : Pipe) (x : ArgRegs) : FifoKey :=
  { pipe := p, tier := tier inclusive x.dT.hdisplay.toNat, depth := x.depth, memTier := x.memTier }

/-! ## Scaling geometry (R241, R242) -/

/-- A size `(h, v)` (R241). -/
structure Size where
  h : Nat
  v : Nat
  deriving DecidableEq, Repr

/-- `src`, the source mode's hdisplay and vdisplay (R241). -/
def srcSize (x : ArgRegs) : Size := ⟨x.sT.hdisplay.toNat, x.sT.vdisplay.toNat⟩

/-- `dst`, the destination mode's hdisplay and vdisplay (R241). -/
def dstSize (x : ArgRegs) : Size := ⟨x.dT.hdisplay.toNat, x.dT.vdisplay.toNat⟩

/-- The geometry check of R242: true when InvalidGeometry is raised. -/
def badGeometry (sel : ScaleSel) (src dst : Size) : Bool :=
  src.h == 0 || src.v == 0 || dst.h == 0 || dst.v == 0 ||
    (sel == .expand && (decide (dst.h < 2) || decide (dst.v < 2)))

/-! ## The path-select field (R250) -/

/-- The mirror value of a path-select value (R49, R250). -/
def mirrorOf : PathSel → PathMirror
  | .dst => .dst
  | .src => .src
  | .none => .none

end Sys2Proof.Machine
end

