-- ==== Sys2Proof/Machine/Flags.lean ====
section
/-! DEFINITION. Every flag the spec computes: the STATUS word and the error codes (R38, R300), the mode flags and the
buffer-sharing bit of the scaler (R247, R248), and the words of GENp, SCALE_MODE and PATH (R40, R43, R44). The DMRP
has no condition codes (R32). -/

namespace Sys2Proof.Machine

/-- A flag as one bit. -/
def flag (b : Bool) : BitVec 1 := if b then 1#1 else 0#1

/-- The code of a command error (R300). -/
def CmdError.code : CmdError → BitVec 4
  | .unsupportedDevice => 1#4
  | .invalidGeometry => 2#4
  | .illegalCommand => 3#4
  | .notInitialized => 4#4
  | .pathMismatch => 5#4
  | .alreadyInitialized => 6#4

/-- STATUS.ERR (R300). -/
def Verdict.code : Verdict → BitVec 4
  | .ok => 0#4
  | .error e => e.code

/-- STATUS (R38): [7:4] ERR, [2] OVR, [1] DONE, [0] BUSY, the other bits 0. -/
def statusWord (s : State) : Word :=
  0#24 ++ s.hr.err.code ++ 0#1 ++ flag s.hr.ovr ++ flag s.hr.done ++ flag (s.phase == .busy)

/-- GENp (R40): [31] VALID, [7:0] GIDX; 0 when the pipe is unbound. -/
def genWord : Option Nat → Word
  | some g => 1#1 ++ 0#23 ++ BitVec.ofNat 8 g
  | none => 0#32

/-- SCALE_MODE (R43): [0] HSHRINK, [1] VSHRINK, [2] HEXPAND, [3] VEXPAND, [4] BUFSHARE. -/
def scaleModeWord (sc : ScalingState) : Word :=
  0#27 ++ flag sc.bufshare ++ flag sc.vexp ++ flag sc.hexp ++ flag sc.vshr ++ flag sc.hshr

/-- PATH (R44): DST 0, SRC 1, NONE 2, UNKNOWN 3. -/
def PathMirror.word : PathMirror → Word
  | .dst => 0#32
  | .src => 1#32
  | .none => 2#32
  | .unknown => 3#32

/-! ## Scale factors and mode flags -/

/-- One axis of the EXPAND factor (R243). -/
def expandFactor (steps src dst : Nat) : Nat := (src - 1) * steps / (dst - 1)

/-- One axis of the SHRINK factor (R244). -/
def shrinkFactor (steps src dst : Nat) : Nat := if dst < src then (src - dst) * steps / dst else 0

/-- One axis' factor by the scale type (R243, R244). -/
def axisFactor : ScaleSel → Nat → Nat → Nat → Nat
  | .expand => expandFactor
  | .shrink => shrinkFactor

/-- `hfac` (R243, R244). -/
def hFactor (sel : ScaleSel) (src dst : Size) : Nat := axisFactor sel hSteps src.h dst.h

/-- `vfac` (R243, R244). -/
def vFactor (sel : ScaleSel) (src dst : Size) : Nat := axisFactor sel vSteps src.v dst.v

/-- `bufshare` (R248). -/
def bufshareFlag (sel : ScaleSel) (src dst : Size) : Bool :=
  sel == .shrink && hFactor sel src dst != 0 && decide (bufshareHmin < dst.h)

/-- The ScalingState of a scale type and geometry (R247, R248); the factors are exact, below 2^32 (R245). -/
def scalingOf (sel : ScaleSel) (src dst : Size) : ScalingState :=
  { hshr := sel == .shrink && hFactor sel src dst != 0
    vshr := sel == .shrink && vFactor sel src dst != 0
    hexp := sel == .expand && hFactor sel src dst != 0
    vexp := sel == .expand && vFactor sel src dst != 0
    bufshare := bufshareFlag sel src dst
    hfac := BitVec.ofNat 32 (hFactor sel src dst)
    vfac := BitVec.ofNat 32 (vFactor sel src dst) }

/-- `down := (SEL = SHRINK) and (hshr or vshr)` (R260). -/
def isDownscale (sc : ScalingState) : Bool := sc.hshr || sc.vshr

end Sys2Proof.Machine
end

