-- ==== Sys2Proof/Machine/Fifo.lean ====
section
/-! DEFINITION. TUNEFIFO (44_fifo R220 to R224). -/

namespace Sys2Proof.Machine

/-- `c / FIFO_QUANT`, rounded down (R224). -/
def quantize (c : Nat) : Nat := c / fifoQuant

/-- The four writes of R223, in the order of R222. -/
def programFifo (lists : PerFifo SizedList) (f : FifoConsts) (bus : Bus) : Bus :=
  let b0 := writeValue lists.maxDepth.fields (quantize f.maxDepth) bus
  let b1 := writeValue lists.threshold.fields (quantize f.threshold) b0
  let b2 := writeValue lists.highThreshold.fields (quantize f.highThreshold) b1
  writeValue lists.expireNum.fields (quantize f.expireNum) b2

/-- The FIFO result registers: the constants before quantization (R42). -/
def fifoResult (f : FifoConsts) : PerFifo (BitVec 16) :=
  { maxDepth := BitVec.ofNat 16 f.maxDepth
    threshold := BitVec.ofNat 16 f.threshold
    highThreshold := BitVec.ofNat 16 f.highThreshold
    expireNum := BitVec.ofNat 16 f.expireNum }

/-- TUNEFIFO (R223). -/
def execTunefifo (p : Pipe) (s : State) : Host.Outcome State Fault Refusal :=
  runCommand (.tunefifo p) s fun x =>
    withTables s p fun t =>
      match t.fifoAt (fifoKey s.cfg.tierInclusive p x) with
      | none => raise .unsupportedDevice
      | some f => .ok ((s.onBus (programFifo (t.fifoList.get p) f)).setFifo (fifoResult f))

end Sys2Proof.Machine
end

