-- ==== Sys2Proof/Machine/Pll.lean ====
section
/-! DEFINITION. SYNPLL and the PLL synthesizer (43_pll R190 to R197). -/

namespace Sys2Proof.Machine

/-- `outputFreq(e)`: floor division first, then the multiplication, then the shift (R190). -/
def outputFreq (e : PllEntry) : Nat := ((fref / e.div) * e.mult) >>> e.shift

/-- `|outputFreq(e) - t|` (R192). -/
def pllError (e : PllEntry) (t : Nat) : Nat := ((outputFreq e : Int) - (t : Int)).natAbs

/-- The scan of R192 over the entries from index `i` on: an entry replaces the best only if strictly closer. -/
def scanFrom (t i best bestErr : Nat) : List PllEntry → Nat
  | [] => best
  | e :: es =>
    if pllError e t < bestErr then scanFrom t (i + 1) i (pllError e t) es
    else scanFrom t (i + 1) best bestErr es

/-- `Search(table, t)` of a non-empty table (R192). -/
def pllSearch (t : Nat) : List PllEntry → Nat
  | [] => 0
  | e :: es => scanFrom t 1 0 (pllError e t) es

/-- The divider word of an entry (R193). -/
def pllCode (enc : PllEnc) (e : PllEntry) : Nat :=
  match enc with
  | .A => e.mult <<< 8 ||| e.shift <<< 6 ||| e.div
  | .B => (e.div - 2) <<< 16 ||| e.shift <<< 10 ||| (e.mult - 2)
  | .C => e.div <<< 16 ||| e.shift <<< 10 ||| e.mult

/-- `nbytes(enc)` (R194). -/
def pllBytes : PllEnc → Nat
  | .A => 2
  | .B => 3
  | .C => 3

/-- Step S3 of R195 from byte `i` on: divider bytes low byte first, plain writes (R196). -/
def writeDividers (code : Nat) : Nat → List RegAddr → Bus → Bus
  | _, [], bus => bus
  | i, r :: rs, bus =>
    writeDividers code (i + 1) rs (bus.devWrite r.bank r.off (BitVec.ofNat 8 (code >>> (8 * i))))

/-- The RMW of one bit (S1, S2, S4 and S5 of R195). -/
def setBit (a : BitAddr) (on : Bool) (bus : Bus) : Bus :=
  bus.devRmw a.bank a.off (BitVec.ofNat 8 (1 <<< a.bit)) (BitVec.ofNat 8 ((if on then 1 else 0) <<< a.bit))

/-- `ProgramPLL(p, code, c)`: exactly this order (R195). -/
def programPll (tPllWait : Nat) (p : Pipe) (code : Nat) (c : PllCfg) (bus : Bus) : Bus :=
  let s1 := setBit c.rst c.rstOn bus
  let s2 := setBit (c.clkEn.get p) (!c.clkOn) s1
  let s3 := writeDividers code 0 ((c.divRegs.get p).take (pllBytes c.enc)) s2
  let s4 := setBit (c.clkEn.get p) c.clkOn s3
  let s5 := setBit c.rst (!c.rstOn) s4
  let s6 := s5.wait tPllWait
  s6.devRmw c.syncPol.bank c.syncPol.off c.syncMask 0x00#8

/-- The result registers of SYNPLL (R41, R197). -/
def pllResult (i : Nat) (enc : PllEnc) (e : PllEntry) : PllResult :=
  { index := BitVec.ofNat 16 i
    code := BitVec.ofNat 24 (pllCode enc e)
    freq := BitVec.ofNat 32 (outputFreq e) }

/-- SYNPLL (R197). A table without the searched entry is one that WF6 refuses (log 16). -/
def execSynpll (p : Pipe) (s : State) : Host.Outcome State Fault Refusal :=
  runCommand (.synpll p) s fun x =>
    withTables s p fun t =>
      match t.pll with
      | none => raise .unsupportedDevice
      | some c =>
        let i := pllSearch (targetHz x) c.table
        match c.table[i]? with
        | none => .error (.fault .unadmittedTable)
        | some e =>
          .ok ((s.onBus (programPll s.cfg.tPllWait p (pllCode c.enc e) c)).setPll (pllResult i c.enc e))

end Sys2Proof.Machine
end

