-- ==== Sys2Proof/Machine/Timing.lean ====
section
/-! DEFINITION. PROGTIM and the timing programmer (42_timing R171, R172, R174, R175). -/

namespace Sys2Proof.Machine

/-- `r_k := floor(T[k] / div) - bias`, an integer (R172). -/
def timingFormula (e : TimingEntry) (v : Nat) : Int := ((v / e.div : Nat) : Int) - e.bias

/-- `reg_k := r_k mod 2^wT`, the two's-complement low bits (R172). -/
def timingReg (e : TimingEntry) (v : Nat) : Nat := (timingFormula e v % ((2 ^ e.list.width : Nat) : Int)).toNat

/-- Writes the parameters of a list in its order (the loop of R174). -/
def programParams (tab : Crtc TimingEntry) (t : Timing) : List CrtcParam → Bus → Bus
  | [], bus => bus
  | k :: ks, bus =>
    programParams tab t ks (writeValue (tab.get k).list.fields (timingReg (tab.get k) (t.get k)) bus)

/-- `ProgramTiming(p, T, g)`: all twelve parameters, k = 0..11 (R174). -/
def programTiming (g : GenTables) (p : Pipe) (t : Timing) (bus : Bus) : Bus :=
  programParams (g.timing.get p) t CrtcParam.all bus

/-- The path-select guard of the scaler pipe (R175): true when PathMismatch is raised. -/
def pathForbids (sel : TimingSel) (path : PathMirror) : Bool :=
  match sel with
  | .mode => path == .src
  | .synth => path != .src

/-- The timing that PROGTIM loads (R171): D_T for MODE, the synthetic source timing for SYNTH. -/
def progtimTiming (c : Cfg) (x : ArgRegs) : TimingSel → Timing
  | .mode => timingOf x.dT
  | .synth => c.synthSrc.apply (timingOf x.sT)

/-- PROGTIM (R171). SYNTH on a pipe that is not the scaler pipe is IllegalCommand, before NotInitialized (R302). -/
def execProgtim (p : Pipe) (sel : TimingSel) (s : State) : Host.Outcome State Fault Refusal :=
  runCommand (.progtim p sel) s fun x =>
    if sel = .synth ∧ p ≠ s.cfg.scalerPipe then raise .illegalCommand
    else
      withTables s p fun t =>
        if p = s.cfg.scalerPipe ∧ pathForbids sel s.path = true then raise .pathMismatch
        else .ok (s.onBus (programTiming t p (progtimTiming s.cfg x sel)))

end Sys2Proof.Machine
end

