-- ==== Sys2Proof/Machine/Admission.lean ====
section
/-! DEFINITION. The admission of a configuration: the checks WF1 to WF12 of 41_generation R152, and what R131 and R150
say of its shape. -/

namespace Sys2Proof

/-- Two fields overlap: same register, intersecting bit ranges (WF2). -/
def RegField.overlaps (f g : RegField) : Bool :=
  f.bank == g.bank && f.off == g.off && decide (f.lo ≤ g.hi) && decide (g.lo ≤ f.hi)

/-- No two fields of a list overlap (WF2, R131). -/
def disjointFields : FieldList → Bool
  | [] => true
  | f :: fs => fs.all (fun g => !f.overlaps g) && disjointFields fs

/-- The bounds of one field (WF1, R130). -/
def RegField.inBounds (banks : List Bank) (f : RegField) : Bool :=
  banks.contains f.bank && decide (f.lo ≤ f.hi) && decide (f.hi ≤ 7)

/-- The values of a pipe pair. -/
def PerPipe.toList {α : Type} (v : PerPipe α) : List α := [v.primary, v.secondary]

/-- The twelve values in the order of R18. -/
def Crtc.toList {α : Type} (t : Crtc α) : List α := CrtcParam.all.map t.get

/-- The four values in the order of R222. -/
def PerFifo.toList {α : Type} (v : PerFifo α) : List α := FifoParam.all.map v.get

/-- The twenty-four timing entries of a generation. -/
def GenTables.timingEntries (t : GenTables) : List TimingEntry := t.timing.toList.flatMap Crtc.toList

/-- The eight FIFO lists of a generation. -/
def GenTables.fifoLists (t : GenTables) : List SizedList := t.fifoList.toList.flatMap PerFifo.toList

/-- The eight scaler lists. -/
def ScalerCfg.lists (c : ScalerCfg) : List FieldList :=
  [c.hFac, c.vFac, c.hEn, c.vEn, c.hDir, c.vDir, c.bufShare, c.path]

/-- Every field list and literal table of a generation, as fields. -/
def GenTables.allLists (t : GenTables) : List FieldList :=
  t.timingEntries.map (fun e => e.list.fields) ++ t.fifoLists.map (fun l => l.fields) ++ t.scaler.lists ++
    t.lit.map (fun l => l.map Prod.fst)

namespace Machine

/-- The bit addresses of a PLL configuration. -/
def pllBits (c : PllCfg) : List BitAddr := c.rst :: c.clkEn.toList

/-- The registers of a PLL configuration. -/
def pllRegs (c : PllCfg) : List RegAddr := c.syncPol :: c.divRegs.toList.flatten

/-- WF1: bank, bounds and bit indices; the banks of the PLL registers too, by the types of R150 (log 14). -/
def wf1 (c : Cfg) (t : GenTables) : Bool :=
  t.allLists.all (fun l => l.all (RegField.inBounds c.banks)) &&
  t.pll.all fun q =>
    (pllBits q).all (fun a => decide (a.bit ≤ 7) && c.banks.contains a.bank) &&
    (pllRegs q).all (fun r => c.banks.contains r.bank)

/-- WF2: no two fields of one list or literal table overlap. -/
def wf2 (t : GenTables) : Bool := t.allLists.all disjointFields

/-- A list has its declared width, within bounds (WF3). -/
def widthOk (lo hi : Nat) (l : SizedList) : Bool :=
  decide (fieldsWidth l.fields = l.width) && decide (lo ≤ l.width) && decide (l.width ≤ hi)

/-- WF3: the widths. -/
def wf3 (t : GenTables) : Bool :=
  t.timingEntries.all (fun e => widthOk 1 32 e.list) && t.fifoLists.all (widthOk 1 16) &&
  decide (fieldsWidth t.scaler.hFac = 12) && decide (fieldsWidth t.scaler.vFac = 11) &&
  [t.scaler.hEn, t.scaler.vEn, t.scaler.hDir, t.scaler.vDir, t.scaler.bufShare].all
    (fun l => decide (fieldsWidth l = 1)) &&
  decide (1 ≤ fieldsWidth t.scaler.path) && decide (fieldsWidth t.scaler.path ≤ 8)

/-- WF4: every timing divisor is at least 1. -/
def wf4 (t : GenTables) : Bool := t.timingEntries.all fun e => decide (1 ≤ e.div)

/-- WF5: the three formulas the document fixes (R173). -/
def wf5 (t : GenTables) : Bool :=
  decide (t.timing.primary.htotal.div = 8 ∧ t.timing.primary.htotal.bias = 5) &&
  decide (t.timing.primary.vtotal.div = 1 ∧ t.timing.primary.vtotal.bias = 2) &&
  decide (t.timing.secondary.htotal.div = 1 ∧ t.timing.secondary.htotal.bias = 1)

/-- WF6: the PLL table is non-empty, has at most 65536 entries, no zero divisor, and frequencies below 2^32. -/
def wf6 (t : GenTables) : Bool :=
  t.pll.all fun q =>
    !q.table.isEmpty && decide (q.table.length ≤ 65536) &&
    q.table.all fun e => decide (1 ≤ e.div) && decide (outputFreq e < 2 ^ 32)

/-- An entry fits an encoding (R193). -/
def pllFits (enc : PllEnc) (e : PllEntry) : Bool :=
  match enc with
  | .A => decide (e.div ≤ 63) && decide (e.shift ≤ 3) && decide (e.mult ≤ 255)
  | .B =>
    decide (2 ≤ e.mult) && decide (e.mult ≤ 1025) && decide (e.shift ≤ 63) && decide (2 ≤ e.div) &&
      decide (e.div ≤ 257)
  | .C => decide (e.mult ≤ 1023) && decide (e.shift ≤ 63) && decide (e.div ≤ 255)

/-- WF7: every entry fits the generation's encoding. -/
def wf7 (t : GenTables) : Bool := t.pll.all fun q => q.table.all (pllFits q.enc)

/-- WF8: as many divider registers as divider bytes, for both pipes. -/
def wf8 (t : GenTables) : Bool :=
  t.pll.all fun q => q.divRegs.toList.all fun rs => decide (rs.length = pllBytes q.enc)

/-- WF9: every FIFO constant is below 2^16. -/
def wf9 (t : GenTables) : Bool :=
  t.fifoTable.all fun row => row.2.toList.all fun v => decide (v < 2 ^ 16)

/-- WF10: every path code fits the path-select field. -/
def wf10 (t : GenTables) : Bool :=
  [PathSel.dst, .src, .none].all fun v =>
    decide (t.scaler.pathEnc.code v < 2 ^ fieldsWidth t.scaler.path)

/-- WF11: `resolve` returns only members of `Gen`. -/
def wf11 (c : Cfg) : Bool := c.resolve.all fun row => decide (row.2 < c.gens.length)

/-- The entry that R226 fixes at 1024 wide, 32 bits per pixel, on pipe 0. -/
def sourceFifoEntry (f : FifoConsts) : Bool :=
  decide (f.maxDepth = 384 ∧ f.threshold = 328 ∧ f.highThreshold = 296) &&
    (decide (f.expireNum = 64) || decide (f.expireNum = 128))

/-- WF12: the source-given FIFO entry of `midGen32` (R226), for every memory tier at which it is defined. -/
def wf12 (c : Cfg) : Bool :=
  match c.midGen32 with
  | none => true
  | some g =>
    match c.gens[g]? with
    | none => false
    | some t =>
      t.fifoTable.all fun row =>
        !(decide (row.1.pipe = .p0) && decide (row.1.tier = tier c.tierInclusive 1024) &&
          decide (row.1.depth = 32#8)) || sourceFifoEntry row.2

/-- `1 <= N <= 256` generations (R150). -/
def genCountOk (c : Cfg) : Bool := decide (1 ≤ c.gens.length) && decide (c.gens.length ≤ 256)

/-- The checks of one generation. -/
def genOk (c : Cfg) (t : GenTables) : Bool :=
  wf1 c t && wf2 t && wf3 t && wf4 t && wf5 t && wf6 t && wf7 t && wf8 t && wf9 t && wf10 t

/-- A configuration is admitted (R152). -/
def admitted (c : Cfg) : Bool := genCountOk c && c.gens.all (genOk c) && wf11 c && wf12 c

end Machine

end Sys2Proof
end

