-- ==== Sys2Proof/WellFormed.lean ====
section
/-! DEFINITION. Which commands are legal encodings by themselves (30_encoding R105, R106, R108). The admission checks
WF1 to WF12 of a configuration (R152) are in Machine/Admission.lean. -/

namespace Sys2Proof

/-- A WRVAL names one of the sixteen field lists (R106); every other operand's type admits only legal values. The IMM
of WRLIT is checked at execution, against the bound generation (R107). -/
def Instr.wf : Instr → Bool
  | .wrval _ imm => decide (imm.toNat < 16)
  | .init _ => true
  | .wrlit _ _ => true
  | .progtim _ _ => true
  | .synpll _ => true
  | .tunefifo _ => true
  | .compscale _ => true
  | .setpath _ => true
  | .progscale _ => true

end Sys2Proof
end

