-- ==== Sys2Proof/Decode.lean ====
section
/-! DEFINITION. The decoder of 30_encoding R107, total on every word and rejecting by name, the encoder of R101 to
R105 after it, and the assembler text of R109. -/

namespace Sys2Proof

/-- Why a word is Illegal (R108). Every one of them completes the command with IllegalCommand (R301). -/
inductive DecodeError where
  /-- An unlisted OPC (R104). -/
  | unknownOpcode
  /-- A set bit outside the format's fields (R102). -/
  | reservedBits
  /-- A SEL value the command does not have (R105). -/
  | badSel
  /-- A WRVAL IMM of 16 or more (R106). -/
  | badImm
  /-- Fewer than four bytes were given: no word at all. -/
  | truncated
  deriving DecidableEq, Repr

/-- The four formats of R102. -/
inductive Format where
  | FP | FPI | FPS | FS
  deriving DecidableEq, Repr

/-- The bits a decoder compares (R102). -/
def Format.mask : Format → Word
  | .FP => 0xFFFEFFFF#32
  | .FPI => 0xFFFEFF00#32
  | .FPS => 0xFFFEF0FF#32
  | .FS => 0xFFFFF0FF#32

/-- OPC, bits [31:24] (R101). -/
def opcOf (w : Word) : BitVec 8 := w.extractLsb' 24 8

/-- The pipe named by bit 16 (R103). -/
def pipeOf (w : Word) : Pipe := if w.getLsbD 16 then .p1 else .p0

/-- SEL, bits [11:8] (R103). -/
def selOf (w : Word) : Nat := (w.extractLsb' 8 4).toNat

/-- IMM, bits [7:0] (R103). -/
def immOf (w : Word) : BitVec 8 := w.extractLsb' 0 8

/-- The reserved-bit check of R107: `(w & mask(fmt)) = OPC << 24`. -/
def Format.admits (f : Format) (w : Word) : Bool := w &&& f.mask == (opcOf w).setWidth 32 <<< 24

/-- SEL of PROGTIM (R105). -/
def TimingSel.ofSel : Nat → Option TimingSel
  | 0 => some .mode
  | 1 => some .synth
  | _ => none

/-- SEL of COMPSCALE and PROGSCALE (R105). -/
def ScaleSel.ofSel : Nat → Option ScaleSel
  | 0 => some .expand
  | 1 => some .shrink
  | _ => none

/-- SEL of SETPATH (R105). -/
def PathSel.ofSel : Nat → Option PathSel
  | 0 => some .dst
  | 1 => some .src
  | 2 => some PathSel.none
  | _ => Option.none

/-- The format of each listed opcode (R104). -/
def formatOf (opc : BitVec 8) : Option Format :=
  match opc.toNat with
  | 0x01 => some .FP
  | 0x02 => some .FPI
  | 0x03 => some .FPI
  | 0x10 => some .FPS
  | 0x20 => some .FP
  | 0x30 => some .FP
  | 0x40 => some .FS
  | 0x41 => some .FS
  | 0x42 => some .FS
  | _ => none

/-- An operand that SEL selects, or the SEL error of R105. -/
def orBadSel {α : Type} (o : Option α) (f : α → Instr) : Except DecodeError Instr :=
  match o with
  | some a => .ok (f a)
  | none => .error .badSel

/-- The command of a word whose reserved bits are clear: the SEL check of R105 and the WRVAL IMM check of R106. -/
def decodeFields (w : Word) : Except DecodeError Instr :=
  match (opcOf w).toNat with
  | 0x01 => .ok (.init (pipeOf w))
  | 0x02 => .ok (.wrlit (pipeOf w) (immOf w))
  | 0x03 => if (immOf w).toNat < 16 then .ok (.wrval (pipeOf w) (immOf w)) else .error .badImm
  | 0x10 => orBadSel (TimingSel.ofSel (selOf w)) (.progtim (pipeOf w))
  | 0x20 => .ok (.synpll (pipeOf w))
  | 0x30 => .ok (.tunefifo (pipeOf w))
  | 0x40 => orBadSel (ScaleSel.ofSel (selOf w)) .compscale
  | 0x41 => orBadSel (PathSel.ofSel (selOf w)) .setpath
  | 0x42 => orBadSel (ScaleSel.ofSel (selOf w)) .progscale
  | _ => .error .unknownOpcode

/-- `decode` of R107, total on every 32-bit word. -/
def decode (w : Word) : Except DecodeError Instr :=
  match formatOf (opcOf w) with
  | none => .error .unknownOpcode
  | some f => if f.admits w then decodeFields w else .error .reservedBits

/-- A register word from its bytes, byte `i` on bits `[8i+7:8i]` (R77). -/
def wordOfBytes (b0 b1 b2 b3 : Byte) : Word := b3 ++ b2 ++ b1 ++ b0

/-- The decoder over bytes: the command in the first four, and the bytes after them. -/
def decodeBytes : List Byte → Except DecodeError (Instr × List Byte)
  | b0 :: b1 :: b2 :: b3 :: rest => (decode (wordOfBytes b0 b1 b2 b3)).map fun i => (i, rest)
  | _ => .error .truncated

/-- The bytes of a command word as R77 numbers them. -/
def bytesOfWord (w : Word) : List Byte :=
  [w.extractLsb' 0 8, w.extractLsb' 8 8, w.extractLsb' 16 8, w.extractLsb' 24 8]

/-- What this decoder reads from an opcode-table word: the bits above `nbits` are 0, a command is one 32-bit word
(R100), its bytes laid out as R77 says. -/
def decodeTableWord (nbits w : Nat) : Option Instr :=
  match decodeBytes (bytesOfWord (BitVec.ofNat 32 (w % 2 ^ nbits))) with
  | .ok (i, _) => some i
  | .error _ => none

/-! ## The encoder (R101 to R105) -/

/-- Bit 16 of a pipe (R101). -/
def Pipe.bit : Pipe → BitVec 1
  | .p0 => 0#1
  | .p1 => 1#1

/-- SEL of PROGTIM (R105). -/
def TimingSel.sel : TimingSel → BitVec 4
  | .mode => 0#4
  | .synth => 1#4

/-- SEL of COMPSCALE and PROGSCALE (R105). -/
def ScaleSel.sel : ScaleSel → BitVec 4
  | .expand => 0#4
  | .shrink => 1#4

/-- SEL of SETPATH (R105). -/
def PathSel.sel : PathSel → BitVec 4
  | .dst => 0#4
  | .src => 1#4
  | .none => 2#4

/-- A command word from its fields (R101). -/
def assemble (opc : BitVec 8) (p : BitVec 1) (sel : BitVec 4) (imm : BitVec 8) : Word :=
  opc ++ 0#7 ++ p ++ 0#4 ++ sel ++ imm

/-- The word of a command (R101 to R105, the words of R109). -/
def encode : Instr → Word
  | .init p => assemble 0x01#8 p.bit 0#4 0#8
  | .wrlit p imm => assemble 0x02#8 p.bit 0#4 imm
  | .wrval p imm => assemble 0x03#8 p.bit 0#4 imm
  | .progtim p sel => assemble 0x10#8 p.bit sel.sel 0#8
  | .synpll p => assemble 0x20#8 p.bit 0#4 0#8
  | .tunefifo p => assemble 0x30#8 p.bit 0#4 0#8
  | .compscale sel => assemble 0x40#8 0#1 sel.sel 0#8
  | .setpath v => assemble 0x41#8 0#1 v.sel 0#8
  | .progscale sel => assemble 0x42#8 0#1 sel.sel 0#8

/-! ## The opcode table's match and mask (R102, R104) -/

/-- A command's opcode (R104). -/
def Instr.opc : Instr → BitVec 8
  | .init _ => 0x01#8
  | .wrlit _ _ => 0x02#8
  | .wrval _ _ => 0x03#8
  | .progtim _ _ => 0x10#8
  | .synpll _ => 0x20#8
  | .tunefifo _ => 0x30#8
  | .compscale _ => 0x40#8
  | .setpath _ => 0x41#8
  | .progscale _ => 0x42#8

/-- A command's format (R104). -/
def Instr.format : Instr → Format
  | .init _ => .FP
  | .wrlit _ _ => .FPI
  | .wrval _ _ => .FPI
  | .progtim _ _ => .FPS
  | .synpll _ => .FP
  | .tunefifo _ => .FP
  | .compscale _ => .FS
  | .setpath _ => .FS
  | .progscale _ => .FS

/-! ## Assembler text (R109) -/

/-- `p0` or `p1`. -/
def Pipe.text : Pipe → String
  | .p0 => "p0"
  | .p1 => "p1"

/-- `mode` or `synth`. -/
def TimingSel.text : TimingSel → String
  | .mode => "mode"
  | .synth => "synth"

/-- `expand` or `shrink`. -/
def ScaleSel.text : ScaleSel → String
  | .expand => "expand"
  | .shrink => "shrink"

/-- `dst`, `src` or `none`. -/
def PathSel.text : PathSel → String
  | .dst => "dst"
  | .src => "src"
  | .none => "none"

/-- The NAME of a WRVAL list, at its IMM (R109). -/
def listNames : List String :=
  ["htotal", "hdisplay", "hblank_start", "hblank_end", "hsync_start", "hsync_end",
   "vtotal", "vdisplay", "vblank_start", "vblank_end", "vsync_start", "vsync_end",
   "fifo_maxdepth", "fifo_thr", "fifo_hthr", "fifo_expire"]

/-- The text of a command (R109): lower case, comma-separated operands; a WRVAL by NAME where it has one. -/
def Instr.text : Instr → String
  | .init p => "init " ++ p.text
  | .wrlit p imm => "wrlit " ++ p.text ++ ", #" ++ toString imm.toNat
  | .wrval p imm =>
    "wrval " ++ p.text ++ ", " ++ (listNames[imm.toNat]?).getD ("#" ++ toString imm.toNat)
  | .progtim p sel => "progtim " ++ p.text ++ ", " ++ sel.text
  | .synpll p => "synpll " ++ p.text
  | .tunefifo p => "tunefifo " ++ p.text
  | .compscale sel => "compscale " ++ sel.text
  | .setpath v => "setpath " ++ v.text
  | .progscale sel => "progscale " ++ sel.text

end Sys2Proof
end

