-- ==== Sys2Proof/Machine/Bitfield.lean ====
section
/-! DEFINITION. WRLIT and WRVAL, the bitfield engine's commands (40_bitfield R139, R140). -/

namespace Sys2Proof.Machine

/-- WRLIT (R140): writes literal table `imm` of the generation bound to pipe `p`. The IMM check comes after the
NotInitialized check (R302). -/
def execWrlit (p : Pipe) (imm : BitVec 8) (s : State) : Host.Outcome State Fault Refusal :=
  runCommand (.wrlit p imm) s fun _ =>
    withTables s p fun t =>
      match t.lit[imm.toNat]? with
      | none => raise .illegalCommand
      | some table => .ok (s.onBus (writeLiteral table))

/-- WRVAL (R139): writes VALUE as it is through the list that `imm` names. -/
def execWrval (p : Pipe) (imm : BitVec 8) (s : State) : Host.Outcome State Fault Refusal :=
  runCommand (.wrval p imm) s fun x =>
    match ListSel.ofImm imm with
    | none => raise .illegalCommand
    | some sel => withTables s p fun t => .ok (s.onBus (writeValue (listOf t p sel) x.value.toNat))

end Sys2Proof.Machine
end

