-- ==== Sys2Proof/Machine/Generation.lean ====
section
/-! DEFINITION. INIT (41_generation R160). -/

namespace Sys2Proof.Machine

/-- INIT (R160): binds pipe `p` to the generation of the latched chip id. Both pipes share one generation (D19). -/
def execInit (p : Pipe) (s : State) : Host.Outcome State Fault Refusal :=
  runCommand (.init p) s fun x =>
    match s.gen.get p with
    | some _ => raise .alreadyInitialized
    | none =>
      match s.cfg.resolveChip x.chipId with
      | none => raise .unsupportedDevice
      | some g =>
        match s.gen.get p.other with
        | some g' => if g' = g then .ok (s.bindGen p g) else raise .unsupportedDevice
        | none => .ok (s.bindGen p g)

end Sys2Proof.Machine
end

