-- ==== Sys2Proof/Machine/Scaling.lean ====
section
/-! DEFINITION. The scaling engine: COMPSCALE, SETPATH and PROGSCALE (45_scaling R246, R250, R260). -/

namespace Sys2Proof.Machine

/-- A flag as the value 0 or 1 of a one-bit field. -/
def bitValue (b : Bool) : Nat := if b then 1 else 0

/-- The direction value of R249: 1 = shrink, 0 = expand. -/
def dirValue : ScaleSel → Nat
  | .expand => 0
  | .shrink => 1

/-- `WriteScale` in the order of R249; an axis is enabled when its factor is not 0 (R247). -/
def writeScale (c : ScalerCfg) (sel : ScaleSel) (sc : ScalingState) (bus : Bus) : Bus :=
  let b0 := writeValue c.hFac sc.hfac.toNat bus
  let b1 := writeValue c.vFac sc.vfac.toNat b0
  let b2 := writeValue c.hDir (dirValue sel) b1
  let b3 := writeValue c.vDir (dirValue sel) b2
  let b4 := writeValue c.bufShare (bitValue sc.bufshare) b3
  let b5 := writeValue c.hEn (bitValue (sc.hfac != 0)) b4
  writeValue c.vEn (bitValue (sc.vfac != 0)) b5

/-- The device write of `SetPath(v)` (R250). -/
def writePath (c : ScalerCfg) (v : PathSel) (bus : Bus) : Bus := writeValue c.path (c.pathEnc.code v) bus

/-- `SetPath(v)`: the field and the mirror in one step (R250, R49). -/
def setPath (c : ScalerCfg) (v : PathSel) (s : State) : State := (s.onBus (writePath c v)).setMirror (mirrorOf v)

/-- COMPSCALE (R246). -/
def execCompscale (sel : ScaleSel) (s : State) : Host.Outcome State Fault Refusal :=
  runCommand (.compscale sel) s fun x =>
    withTables s s.cfg.scalerPipe fun t =>
      if badGeometry sel (srcSize x) (dstSize x) then raise .invalidGeometry
      else
        let sc := scalingOf sel (srcSize x) (dstSize x)
        .ok ((s.onBus (writeScale t.scaler sel sc)).setScale sc)

/-- SETPATH (R250). -/
def execSetpath (v : PathSel) (s : State) : Host.Outcome State Fault Refusal :=
  runCommand (.setpath v) s fun _ => withTables s s.cfg.scalerPipe fun t => .ok (setPath t.scaler v s)

/-- The events of a downscale's timing loads (R260): destination, then synthetic source, each behind its path-select
write, and the explicit final transition to DST. -/
def downscaleLoads (c : Cfg) (t : GenTables) (x : ArgRegs) (bus : Bus) : Bus :=
  let b1 := programTiming t c.scalerPipe (progtimTiming c x .mode) (writePath t.scaler .dst bus)
  let b2 := programTiming t c.scalerPipe (progtimTiming c x .synth) (writePath t.scaler .src b1)
  writePath t.scaler .dst b2

/-- The timing loads of a downscale (R260). The mirror, which changes at completion (R45), ends at the last `SetPath`'s
value. -/
def loadDownscale (t : GenTables) (x : ArgRegs) (s : State) : State :=
  (s.onBus (downscaleLoads s.cfg t x)).setMirror (mirrorOf .dst)

/-- PROGSCALE (R260). A request that is not a downscale loads the destination timing and writes no path-select
field. -/
def execProgscale (sel : ScaleSel) (s : State) : Host.Outcome State Fault Refusal :=
  runCommand (.progscale sel) s fun x =>
    withTables s s.cfg.scalerPipe fun t =>
      if badGeometry sel (srcSize x) (dstSize x) then raise .invalidGeometry
      else
        let sc := scalingOf sel (srcSize x) (dstSize x)
        if isDownscale sc = false ∧ s.path = .src then raise .pathMismatch
        else
          let s1 := s.onBus (writeScale t.scaler sel sc)
          let s2 :=
            if isDownscale sc then loadDownscale t x s1
            else s1.onBus (programTiming t s.cfg.scalerPipe (progtimTiming s.cfg x .mode))
          .ok (s2.setScale sc)

end Sys2Proof.Machine
end

