-- ==== Sys2Proof/Machine/Dispatch.lean ====
section
/-! DEFINITION. One arm per command (30_encoding R104), each one call of its meaning. -/

namespace Sys2Proof.Machine

/-- Runs the rule of a decoded command and completes it (R304). -/
def exec (i : Instr) (s : State) : Host.Outcome State Fault Refusal :=
  match i with
  | .init p => Sys2Proof.Machine.execInit p s
  | .wrlit p imm => Sys2Proof.Machine.execWrlit p imm s
  | .wrval p imm => Sys2Proof.Machine.execWrval p imm s
  | .progtim p sel => Sys2Proof.Machine.execProgtim p sel s
  | .synpll p => Sys2Proof.Machine.execSynpll p s
  | .tunefifo p => Sys2Proof.Machine.execTunefifo p s
  | .compscale sel => Sys2Proof.Machine.execCompscale sel s
  | .setpath v => Sys2Proof.Machine.execSetpath v s
  | .progscale sel => Sys2Proof.Machine.execProgscale sel s

end Sys2Proof.Machine
end

