-- ==== Sys2Proof/Machine/Engine.lean ====
section
/-! DEFINITION. `Execute`, the Engine's one step (60_exceptions R304), and the decoding of the latched word
(30_encoding R107, R301). -/

namespace Sys2Proof.Machine

/-- `Execute` (R304): the latched word's command, or a completion with IllegalCommand (R301). -/
def execute (s : State) : Host.Outcome State Fault Refusal :=
  match s.latch with
  | none => .fault .emptyLatch
  | some l =>
    match decode l.word with
    | .ok i => exec i s
    | .error _ => complete none s (raise .illegalCommand)

/-- The Engine's turn: `Execute` when BUSY, nothing in IDLE (R304: "It takes no step in IDLE"). -/
def engineTurn (s : State) : Host.Outcome State Fault Refusal :=
  match s.phase with
  | .busy => execute s
  | .idle => .next s

end Sys2Proof.Machine
end

