-- ==== Sys2Proof/Machine/HostWindow.lean ====
section
/-! DEFINITION. The host register window: the map of 10_state R33, its reads and writes (R34, R37, R39 to R44), and
which accesses it decodes (20_memory R70, R71). -/

namespace Sys2Proof.Machine

/-- The registers of R33. -/
inductive HostReg where
  | cmd | status
  | chipId | memTier | depth | pitch | value
  | dT (k : CrtcParam)
  | dClockKhz | dRefresh | dFlags
  | sT (k : CrtcParam)
  | gen (p : Pipe)
  | pllIndex | pllCode | pllFreq
  | fifo (j : FifoParam)
  | scaleH | scaleV | scaleMode | path
  | reserved
  deriving DecidableEq, Repr

/-- The registers of R33 in window order, from offset 0x000 on, one word each; every later offset is reserved. -/
def HostReg.map : List HostReg :=
  [.cmd, .status, .chipId, .memTier, .depth, .pitch, .value, .reserved] ++
  CrtcParam.all.map .dT ++ [.dClockKhz, .dRefresh, .dFlags, .reserved] ++
  CrtcParam.all.map .sT ++ [.reserved, .reserved, .reserved, .reserved] ++
  [.gen .p0, .gen .p1, .pllIndex, .pllCode, .pllFreq] ++ FifoParam.all.map .fifo ++
  [.scaleH, .scaleV, .scaleMode, .path]

/-- The register at a decoded offset (R33). -/
def HostReg.atOffset (off : Nat) : HostReg := (HostReg.map[off / 4]?).getD .reserved

/-- The offset of a register (R33); 0x01C for the reserved ones, the first of them. -/
def HostReg.offset (r : HostReg) : Nat := 4 * HostReg.map.idxOf r

/-- The window offset of an access, when the DMRP decodes it (R70, R71): 4 bytes wide, aligned, inside the window. -/
def windowOffset (c : Cfg) (addr width : Nat) : Option Nat :=
  if width = 4 ∧ c.hostBase ≤ addr ∧ (addr - c.hostBase) % 4 = 0 ∧ addr - c.hostBase < 0x100 then
    some (addr - c.hostBase)
  else none

/-- The value that a register reads as: unused bits 0, reserved registers 0, no side effect (R33, R34). -/
def readReg (s : State) : HostReg → Word
  | .cmd => s.hr.cmd
  | .status => statusWord s
  | .chipId => s.hr.args.chipId.setWidth 32
  | .memTier => s.hr.args.memTier.setWidth 32
  | .depth => s.hr.args.depth.setWidth 32
  | .pitch => s.hr.args.pitch
  | .value => s.hr.args.value
  | .dT k => (s.hr.args.dT.get k).setWidth 32
  | .dClockKhz => s.hr.args.dClockKhz
  | .dRefresh => s.hr.args.dRefresh.setWidth 32
  | .dFlags => s.hr.args.dFlags.setWidth 32
  | .sT k => (s.hr.args.sT.get k).setWidth 32
  | .gen p => genWord (s.gen.get p)
  | .pllIndex => s.hr.pll.index.setWidth 32
  | .pllCode => s.hr.pll.code.setWidth 32
  | .pllFreq => s.hr.pll.freq
  | .fifo j => (s.hr.fifo.get j).setWidth 32
  | .scaleH => s.scale.hfac
  | .scaleV => s.scale.vfac
  | .scaleMode => scaleModeWord s.scale
  | .path => s.path.word
  | .reserved => 0#32

/-- A write of an argument register: its used bits in full (R34, R35); any other register leaves the arguments. -/
def writeArg (x : ArgRegs) (r : HostReg) (w : Word) : ArgRegs :=
  match r with
  | .chipId => { x with chipId := w.setWidth 16 }
  | .memTier => { x with memTier := w.setWidth 8 }
  | .depth => { x with depth := w.setWidth 8 }
  | .pitch => { x with pitch := w }
  | .value => { x with value := w }
  | .dT k => { x with dT := x.dT.set k (w.setWidth 16) }
  | .dClockKhz => { x with dClockKhz := w }
  | .dRefresh => { x with dRefresh := w.setWidth 16 }
  | .dFlags => { x with dFlags := w.setWidth 1 }
  | .sT k => { x with sT := x.sT.set k (w.setWidth 16) }
  | .cmd => x
  | .status => x
  | .gen _ => x
  | .pllIndex => x
  | .pllCode => x
  | .pllFreq => x
  | .fifo _ => x
  | .scaleH => x
  | .scaleV => x
  | .scaleMode => x
  | .path => x
  | .reserved => x

/-- A CMD write (R37): accepted in IDLE, discarded with OVR set in BUSY. -/
def writeCmd (s : State) (w : Word) : State :=
  match s.phase with
  | .idle => s.accept w
  | .busy => { s with hr := { s.hr with ovr := true } }

/-- A STATUS write (R39): bit 1 clears DONE, bit 2 clears OVR. -/
def writeStatus (s : State) (w : Word) : State :=
  { s with hr := { s.hr with done := s.hr.done && !w.getLsbD 1, ovr := s.hr.ovr && !w.getLsbD 2 } }

/-- A write of a register as its access code says (R33, R34): a write to a read-only or reserved one changes
nothing. -/
def writeReg (s : State) (r : HostReg) (w : Word) : State :=
  match r with
  | .cmd => writeCmd s w
  | .status => writeStatus s w
  | r => { s with hr := { s.hr with args := writeArg s.hr.args r w } }

/-- `MemRead(addr, width)` (R70): the Host gets the register's value, no other state changes. -/
def hostRead (s : State) (addr width : Nat) : Host.Outcome State Fault Refusal :=
  match windowOffset s.cfg addr width with
  | some off => .next { s with replies := s.replies ++ [⟨off, readReg s (HostReg.atOffset off)⟩] }
  | none => .refused .hostUndecoded

/-- `MemWrite(addr, width, w)` (R70). -/
def hostWrite (s : State) (addr width : Nat) (w : Word) : Host.Outcome State Fault Refusal :=
  match windowOffset s.cfg addr width with
  | some off => .next (writeReg s (HostReg.atOffset off) w)
  | none => .refused .hostUndecoded

end Sys2Proof.Machine
end

