-- ==== Sys2Proof/Machine/Inputs.lean ====
section
/-! DEFINITION. What one input does: a Host access (20_memory R70), the Engine's turn, reset (70_reset R330, R331) or
an ExtDevWrite (R343); one of them per step (R312). -/

namespace Sys2Proof.Machine

/-- The reset act in IDLE (R330): the DMRP's own state at its reset values; `dev` and `trace` unchanged (R332). The
model's list of completions starts anew, so that no pipe is ready to enable before a new mode-set (log 18). -/
def resetState (s : State) : State :=
  { s with
    hr := HostRegs.reset
    phase := .idle
    latch := none
    gen := ⟨none, none⟩
    scale := ScalingState.reset
    path := .unknown
    history := [] }

/-- The reset input (R330, R331). -/
def resetAct (s : State) : Host.Outcome State Fault Refusal :=
  match s.phase with
  | .idle => .next (resetState s)
  | .busy => .fault .resetWhileBusy

/-- `ExtDevWrite(b, o, v)`: only in IDLE, no event (R343). -/
def extDevWrite (s : State) (b : Bank) (o : Offset) (v : Byte) : Host.Outcome State Fault Refusal :=
  match s.phase with
  | .busy => .fault .extDevWriteWhileBusy
  | .idle =>
    if s.cfg.banks.contains b then .next (s.onBus fun bus => bus.poke b o v) else .fault .noSuchBank

/-- What an input does. -/
def act (s : State) : Input → Host.Outcome State Fault Refusal
  | .hostRead addr width => hostRead s addr width
  | .hostWrite addr width v => hostWrite s addr width v
  | .engine => engineTurn s
  | .reset => resetAct s
  | .extDevWrite b o v => extDevWrite s b o v

/-- One step under an admitted configuration: the first pending input acts; with none pending the Engine has its turn
(R350: in BUSY, Execute is taken in the end). -/
def advance (s : State) : Host.Outcome State Fault Refusal :=
  match s.inputs with
  | i :: rest => act { s with inputs := rest } i
  | [] => engineTurn s

end Sys2Proof.Machine
end

