-- ==== Sys2Proof/Machine/Step.lean ====
section
/-! DEFINITION. The step of the machine, and the placing of a command where the next step runs it. -/

namespace Sys2Proof.Machine

/-- One step: no run exists under a configuration that fails an admission check (R152). -/
def step (s : State) : Host.Outcome State Fault Refusal :=
  if admitted s.cfg then advance s else .refused .cfgNotAdmitted

/-- `s` with a command word accepted from the Host (R36, R37) and the Engine's turn next, so that the very next step
executes it (log 8). -/
def State.withFetchWord (s : State) (nbits w : Nat) : State :=
  { s.accept (BitVec.ofNat 32 (w % 2 ^ nbits)) with inputs := .engine :: s.inputs }

end Sys2Proof.Machine
end

