-- ==== Sys2Proof/Machine/HostProgram.lean ====
section
/-! DEFINITION. Host programs (30_encoding R110, R111): their lines, the actions that each line expands to, and a
program run beside the machine, one turn at a time. The Host is an agent of its own (R84, R312): a `waitidle` loop reads
STATUS again as long as the value it was given has BUSY = 1, and who has the next turn is an argument (log 23). -/

namespace Sys2Proof.Machine

/-- One line of a Host program (R110, R111). -/
inductive HostLine where
  /-- `hw OFF, V`. -/
  | hw (off : Nat) (v : Word)
  /-- `hr OFF`. -/
  | hr (off : Nat)
  /-- `waitidle`. -/
  | waitIdle
  /-- `issue W`. -/
  | issue (w : Word)
  /-- A bare command mnemonic. -/
  | command (i : Instr)
  /-- `clrstat`. -/
  | clrStat
  /-- `modeset pP`. -/
  | modeset (p : Pipe)
  /-- `downscale`. -/
  | downscale
  /-- `upscale`. -/
  | upscale
  deriving DecidableEq, Repr

/-- What a program is made of once its pseudo-instructions are expanded: an access, or the loop of R111. -/
inductive HostAct where
  /-- `MemWrite(HOST_BASE+OFF, 4, V)` (R110). -/
  | write (off : Nat) (v : Word)
  /-- `MemRead(HOST_BASE+OFF, 4)` (R110). -/
  | read (off : Nat)
  /-- `hr STATUS` until bit 0 (BUSY) is 0 (R111). -/
  | pollIdle
  deriving DecidableEq, Repr

/-- `issue W` is `hw CMD, W` then `waitidle` (R111). -/
def issueActs (w : Word) : List HostAct := [.write HostReg.cmd.offset w, .pollIdle]

/-- The expansion of a line (R111). -/
def HostLine.acts : HostLine → List HostAct
  | .hw off v => [.write off v]
  | .hr off => [.read off]
  | .waitIdle => [.pollIdle]
  | .issue w => issueActs w
  | .command i => issueActs (encode i)
  | .clrStat => [.write HostReg.status.offset 0x6#32]
  | .modeset p =>
    issueActs (encode (.progtim p .mode)) ++ issueActs (encode (.synpll p)) ++ issueActs (encode (.tunefifo p))
  | .downscale => issueActs (encode (.progscale .shrink))
  | .upscale => issueActs (encode (.progscale .expand))

/-- A Host program: its lines in order (R110). -/
def programActs (lines : List HostLine) : List HostAct := lines.flatMap HostLine.acts

/-- The access that an action makes at its turn, at the window's base (R70, R110). -/
def HostAct.input (base : Nat) : HostAct → Input
  | .write off v => .hostWrite (base + off) 4 v
  | .read off => .hostRead (base + off) 4
  | .pollIdle => .hostRead (base + HostReg.status.offset) 4

/-- Whether an action has to be taken again: the loop, when the value it has just read has BUSY = 1 (R111). -/
def HostAct.repeats (t : State) : HostAct → Bool
  | .write _ _ => false
  | .read _ => false
  | .pollIdle => t.replies.getLast?.any fun r => r.value.getLsbD 0

/-- The machine, and the actions that the Host has still to take. -/
structure HostRun where
  machine : State
  todo : List HostAct
  deriving DecidableEq, Repr

/-- Whose turn it is (R312): the Host's next action, or any other input (the Engine's turn, reset, ExtDevWrite). -/
inductive Turn where
  | host
  | other (i : Input)
  deriving DecidableEq, Repr

/-- One step of the machine in which a given input acts. -/
def stepOn (i : Input) (s : State) : Host.Outcome State Fault Refusal := step { s with inputs := i :: s.inputs }

/-- A turn: one machine step. A Host turn takes the next action, and stays at it while it repeats; with no action left
it does nothing. -/
def takeTurn (r : HostRun) : Turn → Host.Outcome HostRun Fault Refusal
  | .host =>
    match r.todo with
    | [] => .next r
    | a :: rest =>
      match stepOn (a.input r.machine.cfg.hostBase) r.machine with
      | .next t => .next ⟨t, if a.repeats t then a :: rest else rest⟩
      | .fault f => .fault f
      | .refused e => .refused e
  | .other i =>
    match stepOn i r.machine with
    | .next t => .next ⟨t, r.todo⟩
    | .fault f => .fault f
    | .refused e => .refused e

/-- A run: the turns of a list, in order. Every interleaving of a program with the other agents is such a list, and it
is fair (R350) when the Engine has a turn in the end whenever the machine is BUSY. -/
def takeTurns : List Turn → HostRun → Host.Outcome HostRun Fault Refusal
  | [], r => .next r
  | u :: us, r =>
    match takeTurn r u with
    | .next r' => takeTurns us r'
    | .fault f => .fault f
    | .refused e => .refused e

end Sys2Proof.Machine
end

