-- ==== Sys2Proof/Safety.lean ====
section
/-! DEFINITION. What counts as a safe state and a safe run: the machine's invariant, runs over inputs, and the Host's
duties before it enables a pipe (70_reset R345). -/

namespace Sys2Proof.Machine

/-! ## The machine's invariant -/

/-- A bound generation is a member of `Cfg.Gen` (R151, WF11), and two bound pipes share it (R160). -/
def State.gensOk (s : State) : Prop :=
  (∀ p g, s.gen.get p = some g → g < s.cfg.gens.length) ∧
  ∀ g g', s.gen.primary = some g → s.gen.secondary = some g' → g = g'

/-- The mode flags are those of one scale type, and BUFSHARE needs a horizontal shrink (R247, R248). -/
def ScalingState.ok (sc : ScalingState) : Prop :=
  ¬ ((sc.hshr ∨ sc.vshr) ∧ (sc.hexp ∨ sc.vexp)) ∧
  ((sc.hshr ∨ sc.hexp) ↔ sc.hfac ≠ 0) ∧ ((sc.vshr ∨ sc.vexp) ↔ sc.vfac ≠ 0) ∧ (sc.bufshare → sc.hshr)

/-- In BUSY the latch holds the accepted command, and DONE is 0 (R36, R37, R39). -/
def State.busyOk (s : State) : Prop :=
  s.phase = .busy → s.hr.done = false ∧ ∃ l, s.latch = some l ∧ l.word = s.hr.cmd

/-- What every step keeps: an admitted configuration, device memory in canonical form, and the clauses above. -/
def State.Inv (s : State) : Prop :=
  admitted s.cfg = true ∧ Memory.wf s.bus.dev ∧ s.gensOk ∧ s.scale.ok ∧ s.busyOk

/-! ## The device space as the trace tells it -/

/-- The effect of one event on the device bytes: only a WR changes one (R73, R75). -/
def replayEvent (m : List Host.Cell) : Event → List Host.Cell
  | .wr b o v => Memory.write m (devAddr b o) v
  | .rd _ _ _ => m
  | .wait _ => m

/-- The device bytes after a list of events. -/
def replay (m : List Host.Cell) (es : List Event) : List Host.Cell := es.foldl replayEvent m

/-- A list of events read true: every RD returned the byte that stood there (R74). -/
def readsTrue : List Host.Cell → List Event → Prop
  | _, [] => True
  | m, .rd b o v :: es => v = Memory.read m (devAddr b o) ∧ readsTrue m es
  | m, e :: es => readsTrue (replayEvent m e) es

/-- The events of a command rule: `t` is `s` with events appended to the trace, each RD true of the bytes at its time,
and the device bytes what the WR events leave (R73, R74). -/
def BusRuns (s t : Bus) : Prop :=
  ∃ es, t.trace = s.trace ++ es ∧ t.dev = replay s.dev es ∧ readsTrue s.dev es

/-! ## Commands in a row -/

/-- The commands of a list issued one after another with the argument registers as they stand: each is accepted from
the Host in IDLE and executed (R37, R111 `issue`). -/
def issueAll (s : State) : List Instr → Host.Outcome State Fault Refusal
  | [] => .next s
  | i :: is =>
    match exec i (s.accept (encode i)) with
    | .next t => issueAll t is
    | .fault f => .fault f
    | .refused r => .refused r

/-! ## What a completion leaves unchanged -/

/-- The completion of a command with a verdict (R304): Engine IDLE, BUSY clear, DONE set, ERR written; the
configuration, CMD, OVR, the argument registers, the latch and the pending inputs and replies as before. -/
def Finished (i : Instr) (v : Verdict) (s t : State) : Prop :=
  t.phase = .idle ∧ t.hr.done = true ∧ t.hr.err = v ∧ t.history = s.history ++ [⟨some i, v⟩] ∧
  t.cfg = s.cfg ∧ t.hr.cmd = s.hr.cmd ∧ t.hr.ovr = s.hr.ovr ∧ t.hr.args = s.hr.args ∧ t.latch = s.latch ∧
  t.inputs = s.inputs ∧ t.replies = s.replies

/-- The PLL and FIFO result registers as before. -/
def SameHostResults (s t : State) : Prop := t.hr.pll = s.hr.pll ∧ t.hr.fifo = s.hr.fifo

/-- Every result register and mirror as before (R45): GENp, PLL_*, FIFO_*, SCALE_* and PATH. -/
def SameResults (s t : State) : Prop :=
  SameHostResults s t ∧ t.gen = s.gen ∧ t.scale = s.scale ∧ t.path = s.path

/-- Every device byte outside the given registers reads as before. -/
def KeepsOutside (rs : List RegAddr) (s t : Bus) : Prop :=
  ∀ b o, RegAddr.mk b o ∉ rs → t.peek b o = s.peek b o

/-- The registers of a field list. -/
def regsOf (l : FieldList) : List RegAddr := l.map fun f => ⟨f.bank, f.off⟩

/-- An event without its byte. -/
inductive Touch where
  | rd (b : Bank) (o : Offset)
  | wr (b : Bank) (o : Offset)
  | wait (microseconds : Nat)
  deriving DecidableEq, Repr

/-- What an event touches. -/
def Event.touch : Event → Touch
  | .rd b o _ => .rd b o
  | .wr b o _ => .wr b o
  | .wait t => .wait t

/-- The RD and WR of each field, in list order (R133, R134). -/
def listTouches (l : FieldList) : List Touch := l.flatMap fun f => [.rd f.bank f.off, .wr f.bank f.off]

/-- `t` has exactly the given touches appended to the trace. -/
def Appends (s t : Bus) (ts : List Touch) : Prop := ∃ es, t.trace = s.trace ++ es ∧ es.map Event.touch = ts

/-- The field lists of the twelve timing parameters of a pipe, in the order of R18. -/
def timingLists (g : GenTables) (p : Pipe) : List FieldList :=
  CrtcParam.all.map fun k => ((g.timing.get p).get k).list.fields

/-- The four FIFO lists of a pipe, in the order of R222. -/
def fifoListsOf (g : GenTables) (p : Pipe) : List FieldList :=
  FifoParam.all.map fun j => ((g.fifoList.get p).get j).fields

/-- The seven lists of `WriteScale`, in its order (R249). -/
def scaleLists (c : ScalerCfg) : List FieldList := [c.hFac, c.vFac, c.hDir, c.vDir, c.bufShare, c.hEn, c.vEn]

/-- The registers that SYNPLL writes (R195). -/
def pllTouched (c : PllCfg) (p : Pipe) : List RegAddr :=
  [⟨c.rst.bank, c.rst.off⟩, ⟨(c.clkEn.get p).bank, (c.clkEn.get p).off⟩, c.syncPol] ++ c.divRegs.get p

/-- The tables of the generation bound to a pipe. -/
def State.bound (s : State) (p : Pipe) : Option GenTables := (s.gen.get p).bind fun g => s.cfg.gens[g]?

/-- What a successful write of one field list does on the bus: the events of R134 and no other, no byte outside the
list's registers changed, and the value read back through the list (R138). -/
def WroteList (l : FieldList) (v : Nat) (s u : Bus) : Prop :=
  u = writeValue l v s ∧ Appends s u (listTouches l) ∧ KeepsOutside (regsOf l) s u ∧
  ((∀ f ∈ l, f.lo ≤ f.hi ∧ f.hi ≤ 7) → disjointFields l = true → readValue l u = v % 2 ^ fieldsWidth l)

/-- A command that completes with an error and changes nothing but STATUS (R303). -/
def Rejects (i : Instr) (e : CmdError) (s : State) : Prop :=
  ∃ t, exec i s = .next t ∧ Finished i (.error e) s t ∧ SameResults s t ∧ t.bus = s.bus

/-- The used bits of an argument register (R33); none for a register that a write does not simply store. -/
def usedMask : HostReg → Option Word
  | .chipId => some 0x0000FFFF#32
  | .memTier => some 0x000000FF#32
  | .depth => some 0x000000FF#32
  | .pitch => some 0xFFFFFFFF#32
  | .value => some 0xFFFFFFFF#32
  | .dT _ => some 0x0000FFFF#32
  | .dClockKhz => some 0xFFFFFFFF#32
  | .dRefresh => some 0x0000FFFF#32
  | .dFlags => some 0x00000001#32
  | .sT _ => some 0x0000FFFF#32
  | .cmd => none
  | .status => none
  | .gen _ => none
  | .pllIndex => none
  | .pllCode => none
  | .pllFreq => none
  | .fifo _ => none
  | .scaleH => none
  | .scaleV => none
  | .scaleMode => none
  | .path => none
  | .reserved => none

/-! ## The error of a command, by the priority of R302 -/

/-- The pipe whose generation a command needs (R161). -/
def neededPipe (c : Cfg) : Instr → Option Pipe
  | .init _ => none
  | .wrlit p _ => some p
  | .wrval p _ => some p
  | .progtim p _ => some p
  | .synpll p => some p
  | .tunefifo p => some p
  | .compscale _ => some c.scalerPipe
  | .setpath _ => some c.scalerPipe
  | .progscale _ => some c.scalerPipe

/-- Check 1 of R302 that a decoded command can still fail: PROGTIM SYNTH off the scaler pipe, WRVAL IMM range. -/
def illegalFirst (c : Cfg) : Instr → Bool
  | .wrval _ imm => decide (16 ≤ imm.toNat)
  | .progtim p sel => sel == .synth && p != c.scalerPipe
  | .init _ => false
  | .wrlit _ _ => false
  | .synpll _ => false
  | .tunefifo _ => false
  | .compscale _ => false
  | .setpath _ => false
  | .progscale _ => false

/-- Check 3 of R302: a WRLIT IMM outside the bound generation's literal tables. -/
def illegalTable (s : State) : Instr → Bool
  | .wrlit p imm => (s.bound p).any fun t => decide (t.lit.length ≤ imm.toNat)
  | .init _ => false
  | .wrval _ _ => false
  | .progtim _ _ => false
  | .synpll _ => false
  | .tunefifo _ => false
  | .compscale _ => false
  | .setpath _ => false
  | .progscale _ => false

/-- Check 4 of R302: the causes of UnsupportedDevice (R300). -/
def unsupported (s : State) (x : ArgRegs) : Instr → Bool
  | .init p =>
    match s.cfg.resolveChip x.chipId with
    | none => true
    | some g => (s.gen.get p.other).any fun g' => g' != g
  | .synpll p => (s.bound p).any fun t => t.pll.isNone
  | .tunefifo p => (s.bound p).any fun t => (t.fifoAt (fifoKey s.cfg.tierInclusive p x)).isNone
  | .wrlit _ _ => false
  | .wrval _ _ => false
  | .progtim _ _ => false
  | .compscale _ => false
  | .setpath _ => false
  | .progscale _ => false

/-- Check 5 of R302: InvalidGeometry (R242). -/
def geometryError (x : ArgRegs) : Instr → Bool
  | .compscale sel => badGeometry sel (srcSize x) (dstSize x)
  | .progscale sel => badGeometry sel (srcSize x) (dstSize x)
  | .init _ => false
  | .wrlit _ _ => false
  | .wrval _ _ => false
  | .progtim _ _ => false
  | .synpll _ => false
  | .tunefifo _ => false
  | .setpath _ => false

/-- Check 6 of R302: PathMismatch (R175, R260). -/
def pathError (s : State) (x : ArgRegs) : Instr → Bool
  | .progtim p sel => p == s.cfg.scalerPipe && ((sel == .mode) == (s.path == .src))
  | .progscale sel =>
    s.path == .src && !(sel == .shrink && (hFactor sel (srcSize x) (dstSize x) != 0 ||
      vFactor sel (srcSize x) (dstSize x) != 0))
  | .init _ => false
  | .wrlit _ _ => false
  | .wrval _ _ => false
  | .synpll _ => false
  | .tunefifo _ => false
  | .compscale _ => false
  | .setpath _ => false

/-- The six checks in the order of R302. -/
def errorChecks (i : Instr) (s : State) (x : ArgRegs) : List (Bool × CmdError) :=
  [(illegalFirst s.cfg i, .illegalCommand),
   ((neededPipe s.cfg i).any (fun p => (s.gen.get p).isNone), .notInitialized),
   ((match i with | .init p => (s.gen.get p).isSome | _ => false), .alreadyInitialized),
   (illegalTable s i, .illegalCommand),
   (unsupported s x i, .unsupportedDevice),
   (geometryError x i, .invalidGeometry),
   (pathError s x i, .pathMismatch)]

/-- The verdict of a command: the first check that applies, or OK (R300, R302). -/
def expectedVerdict (i : Instr) (s : State) (x : ArgRegs) : Verdict :=
  match (errorChecks i s x).find? Prod.fst with
  | some (_, e) => .error e
  | none => .ok

/-! ## Before a pipe is enabled (R345) -/

/-- The timing command of a pipe (R345, 1): PROGTIM MODE, or PROGSCALE on the scaler pipe. -/
def loadsTiming (c : Cfg) (p : Pipe) : Instr → Bool
  | .progtim q sel => q == p && sel == .mode
  | .progscale _ => p == c.scalerPipe
  | .init _ => false
  | .wrlit _ _ => false
  | .wrval _ _ => false
  | .synpll _ => false
  | .tunefifo _ => false
  | .compscale _ => false
  | .setpath _ => false

/-- A WRVAL to a timing list of a pipe (R345, 1; R106). -/
def wrvalTiming (p : Pipe) : Instr → Bool
  | .wrval q imm => q == p && decide (imm.toNat < 12)
  | .init _ => false
  | .wrlit _ _ => false
  | .progtim _ _ => false
  | .synpll _ => false
  | .tunefifo _ => false
  | .compscale _ => false
  | .setpath _ => false
  | .progscale _ => false

/-- A command on a pipe (R345, 3; log 18): one whose P is the pipe, or a scaling command on the scaler pipe. -/
def onPipe (c : Cfg) (p : Pipe) : Instr → Bool
  | .init q => q == p
  | .wrlit q _ => q == p
  | .wrval q _ => q == p
  | .progtim q _ => q == p
  | .synpll q => q == p
  | .tunefifo q => q == p
  | .compscale _ => p == c.scalerPipe
  | .setpath _ => p == c.scalerPipe
  | .progscale _ => p == c.scalerPipe

/-- A PROGTIM of a pipe, of either selector (R345, 4). -/
def progtimOf (p : Pipe) : Instr → Bool
  | .progtim q _ => q == p
  | .init _ => false
  | .wrlit _ _ => false
  | .wrval _ _ => false
  | .synpll _ => false
  | .tunefifo _ => false
  | .compscale _ => false
  | .setpath _ => false
  | .progscale _ => false

/-- A completion whose command satisfies a test. -/
def Completion.is (f : Instr → Bool) (c : Completion) : Bool := c.cmd.any f

/-- A completion with ERR = 0 whose command satisfies a test. -/
def Completion.isOk (f : Instr → Bool) (c : Completion) : Bool := c.is f && decide (c.verdict = .ok)

/-- A command on a pipe that completed with UnsupportedDevice (R345, 3). -/
def Completion.unsupportedOn (c : Cfg) (p : Pipe) (d : Completion) : Bool :=
  d.is (onPipe c p) && decide (d.verdict = .error .unsupportedDevice)

/-- The completed commands, newest first. -/
def State.completed (s : State) : List Completion := s.history.reverse

/-- The completions after the last one that satisfies a test, and all of them when none does; newest first. -/
def afterLast (f : Completion → Bool) (cs : List Completion) : List Completion := cs.takeWhile fun c => !f c

/-- A successful mode-set of a pipe among some completions (R346; log 18): a timing command with ERR = 0, and so a
SYNPLL and a TUNEFIFO, each where the pipe's Host uses it (it stands among `all`). -/
def modeSetIn (c : Cfg) (p : Pipe) (all cs : List Completion) : Bool :=
  cs.any (Completion.isOk (loadsTiming c p)) &&
  [Instr.synpll p, .tunefifo p].all fun i =>
    !all.any (Completion.is (· == i)) || cs.any (Completion.isOk (· == i))

/-- Duty 1 of R345, over the completed commands (`State.settled` says that none is pending): the last timing command
completed with ERR = 0, and no WRVAL to a timing list followed it. -/
def State.timingDuty (s : State) (p : Pipe) : Bool :=
  (s.completed.find? (Completion.is (loadsTiming s.cfg p))).any (fun c => decide (c.verdict = .ok)) &&
  !(afterLast (Completion.is (loadsTiming s.cfg p)) s.completed).any (Completion.is (wrvalTiming p))

/-- Duty 2 of R345: on the scaler pipe, with a downscale in effect, the path is DST. DESIGN CHOICE (log 27), unsafe: with
no downscale in effect no path is asked for, so a `setpath none` with no `setpath dst` after it (R348) leaves the pipe
ready. -/
def State.pathDuty (s : State) (p : Pipe) : Bool :=
  p != s.cfg.scalerPipe || !isDownscale s.scale || decide (s.path = .dst)

/-- Duty 3 of R345: no command on the pipe completed with UnsupportedDevice since the last successful mode-set: none
did, or a whole mode-set succeeded after the last that did. -/
def State.supportDuty (s : State) (p : Pipe) : Bool :=
  !s.completed.any (Completion.unsupportedOn s.cfg p) ||
  modeSetIn s.cfg p s.completed (afterLast (Completion.unsupportedOn s.cfg p) s.completed)

/-- Duty 4 of R345: a SYNPLL of the pipe, if used, completed with ERR = 0 after the last PROGTIM. -/
def State.pllDuty (s : State) (p : Pipe) : Bool :=
  !s.completed.any (Completion.is (· == .synpll p)) ||
  ((afterLast (Completion.is (progtimOf p)) s.completed).find? (Completion.is (· == .synpll p))).any
    fun c => decide (c.verdict = .ok)

/-- No command is accepted and not yet completed. The duties speak of completed commands (R345, R341), and the enable is
a device write, which the surrounding software may make only outside BUSY (R343). -/
def State.settled (s : State) : Bool := decide (s.phase = .idle)

/-- `ReadyToEnable(p)` (R345): with no command pending, the duties over the completed commands, the scale mirror and the
path mirror. They bind the Host; the enable itself is outside the DMRP (log 18). -/
def State.readyToEnable (s : State) (p : Pipe) : Bool :=
  s.settled && s.timingDuty p && s.pathDuty p && s.supportDuty p && s.pllDuty p

end Sys2Proof.Machine
end

