-- ==== Sys2Proof/Certificates/Slice0/Obligations.lean ====
section
/-! DEFINITION. The statements for the provers, each with the rule of spec/ that it formalises. -/

open Sys2Proof Sys2Proof.Machine

/-! ## Encoding -/

/-- R112: the worked encodings, each command's text (R109), its word and back, and the five illegal words. -/
def Obligations.WorkedEncodingsDecode : Prop :=
  (∀ c ∈ [(Instr.init .p1, "init p1", 0x01010000#32), (.wrlit .p0 2#8, "wrlit p0, #2", 0x02000002#32),
      (.wrval .p1 13#8, "wrval p1, fifo_thr", 0x0301000D#32), (.progtim .p1 .synth, "progtim p1, synth", 0x10010100#32),
      (.synpll .p0, "synpll p0", 0x20000000#32), (.tunefifo .p1, "tunefifo p1", 0x30010000#32),
      (.compscale .shrink, "compscale shrink", 0x40000100#32), (.setpath .none, "setpath none", 0x41000200#32),
      (.progscale .shrink, "progscale shrink", 0x42000100#32)],
    c.1.text = c.2.1 ∧ encode c.1 = c.2.2 ∧ decode c.2.2 = .ok c.1) ∧
  decode 0x00000000#32 = .error .unknownOpcode ∧ decode 0x01000001#32 = .error .reservedBits ∧
  decode 0x10000200#32 = .error .badSel ∧ decode 0x40010000#32 = .error .reservedBits ∧
  decode 0x03000010#32 = .error .badImm

/-- Decoding the word of a legal command gives the command back (R101 to R107). -/
def Obligations.DecodeEncodeRoundTrip : Prop := ∀ i : Instr, i.wf = true → decode (encode i) = .ok i

/-- A word that decodes is the one word of a legal command: no bit of it is ignored (R107, R108). -/
def Obligations.DecodedWordIsItsEncoding : Prop :=
  ∀ (w : Word) (i : Instr), decode w = .ok i → encode i = w ∧ i.wf = true

/-! ## The step -/

/-- A step of the BUSY Engine runs the latched word's command (R304, R107). When the Engine's turn comes is the model's
choice: a turn among the pending inputs, and the turn of a step with none pending (log 6, 25). So is the third clause,
DESIGN CHOICE (log 8): `withFetchWord`, in place of a CMD write that R37 accepts, replaces whatever the latch held and
puts the Engine's turn first, so that the very next step executes the word. -/
def Obligations.StepRunsDecodedCommand : Prop :=
  (∀ (s : State) (l : Latch) (i : Instr), admitted s.cfg = true → s.phase = .busy → s.latch = some l →
    decode l.word = .ok i →
    (s.inputs = [] → step s = exec i s) ∧
    (∀ rest, s.inputs = .engine :: rest → step s = exec i { s with inputs := rest })) ∧
  (∀ (s : State) (i : Instr), admitted s.cfg = true → i.wf = true →
    step (s.withFetchWord 32 (encode i).toNat) = exec i (s.accept (encode i)))

/-- R301: a word that fails the decode completes with ERR = 3, no device event and no result update; CMD still holds
it. -/
def Obligations.IllegalWordCompletes : Prop :=
  ∀ (s : State) (l : Latch) (e : DecodeError), admitted s.cfg = true → s.phase = .busy → s.latch = some l →
    decode l.word = .error e → s.inputs = [] →
    ∃ t, step s = .next t ∧ readReg t .status = (if s.hr.ovr then 0x36#32 else 0x32#32) ∧ t.phase = .idle ∧
      t.hr.cmd = s.hr.cmd ∧ t.hr.args = s.hr.args ∧ t.bus = s.bus ∧ SameResults s t ∧ t.cfg = s.cfg ∧
      t.latch = s.latch ∧ t.replies = s.replies ∧ t.inputs = s.inputs

/-- R304: "It takes no step in IDLE." That the machine's step, on the Engine's turn in IDLE or with nothing pending,
answers next with the state as it was is the model's form of it, DESIGN CHOICE (log 7). -/
def Obligations.EngineIdleTakesNoStep : Prop :=
  ∀ s : State, admitted s.cfg = true → s.phase = .idle →
    (s.inputs = [] → step s = .next s) ∧
    (∀ rest, s.inputs = .engine :: rest → step s = .next { s with inputs := rest })

/-- Every step keeps the machine's invariant, from every state that has it (R36, R37, R152, R160, R247, R248). -/
def Obligations.StepKeepsInvariant : Prop := ∀ s t : State, s.Inv → step s = .next t → t.Inv

/-- The machine right after reset has the invariant. The configuration in it is the model's choice (log 2). -/
def Obligations.ResetHasInvariant : Prop := State.reset.Inv

/-- Under the invariant no step stops for want of a latch, of a table or of an admitted configuration (log 10, 16). -/
def Obligations.InvariantExcludesInternalStops : Prop :=
  ∀ s : State, s.Inv → step s ≠ .fault .emptyLatch ∧ step s ≠ .fault .unadmittedTable ∧
    step s ≠ .refused .cfgNotAdmitted

/-- R30: the configuration is a parameter of the step relation and never changes. -/
def Obligations.ConfigurationNeverChanges : Prop := ∀ s t : State, step s = .next t → t.cfg = s.cfg

/-- R152: a configuration that fails a check has no run. -/
def Obligations.UnadmittedConfigurationRefused : Prop :=
  ∀ s : State, admitted s.cfg = false → step s = .refused .cfgNotAdmitted

/-- R52, R73, R74: but for an ExtDevWrite, a step only appends to the trace, every RD in what it appends returned the
byte that stood there, and the device bytes are what its WR events leave. -/
def Obligations.TraceTellsDeviceSpace : Prop :=
  ∀ s t : State, step s = .next t → (∀ b o v rest, s.inputs ≠ .extDevWrite b o v :: rest) → BusRuns s.bus t.bus

/-- A command on an empty latch stops: the model's choice, no BUSY state reached from reset has one (log 10). -/
def Obligations.EmptyLatchStops : Prop := ∀ (i : Instr) (s : State), s.latch = none → exec i s = .fault .emptyLatch

/-! ## Errors and completion -/

/-- R303: a latched word, legal or not, that reports an error has issued no event and changed no result register, mirror
or gen: only ERR, DONE and the phase differ (and the model's own list of completions). -/
def Obligations.ErrorsChangeNothingButStatus : Prop :=
  ∀ (s t : State) (e : CmdError), execute s = .next t → t.hr.err = .error e →
    t.bus = s.bus ∧ SameResults s t ∧
    t = { s with
      hr := { s.hr with err := .error e, done := true }
      phase := .idle
      history := t.history }

/-- What every completion does and leaves (R304): IDLE, DONE set, the verdict in ERR, and the registers that no command
writes. -/
def Obligations.CompletionFrame : Prop :=
  ∀ (i : Instr) (s t : State), exec i s = .next t → Finished i t.hr.err s t

/-- R302: the error a command reports is the first check that applies, in the order of the rule, and OK when none
does. -/
def Obligations.ErrorPriority : Prop :=
  ∀ (i : Instr) (s : State) (l : Latch), admitted s.cfg = true → s.gensOk → s.latch = some l →
    ∃ t, exec i s = .next t ∧ t.hr.err = expectedVerdict i s l.args

/-- R305: what a command does is a function of the latch, gen, path, Cfg and the device bytes. -/
def Obligations.OutcomeDependsOnLatchAndDevice : Prop :=
  ∀ (i : Instr) (s s' t : State), s.latch = s'.latch → s.gen = s'.gen → s.path = s'.path → s.cfg = s'.cfg →
    s.bus.dev = s'.bus.dev → exec i s = .next t →
    ∃ t' es, exec i s' = .next t' ∧ t'.hr.err = t.hr.err ∧ t'.gen = t.gen ∧ t'.path = t.path ∧
      t'.bus.dev = t.bus.dev ∧ t.bus.trace = s.bus.trace ++ es ∧ t'.bus.trace = s'.bus.trace ++ es ∧
      (t'.scale = t.scale ∨ (t.scale = s.scale ∧ t'.scale = s'.scale)) ∧
      (t'.hr.pll = t.hr.pll ∨ (t.hr.pll = s.hr.pll ∧ t'.hr.pll = s'.hr.pll)) ∧
      (t'.hr.fifo = t.hr.fifo ∨ (t.hr.fifo = s.hr.fifo ∧ t'.hr.fifo = s'.hr.fifo))

/-- R342 (R35, R36): the argument registers as they stand in BUSY do not change what the running command does. -/
def Obligations.ArgumentWritesWhileBusyAreSafe : Prop :=
  ∀ (s t : State) (x : ArgRegs), execute s = .next t →
    execute { s with hr := { s.hr with args := x } } = .next { t with hr := { t.hr with args := x } }

/-- R47: a bound generation stays until reset, and only a successful INIT of the pipe binds it. -/
def Obligations.GenerationBoundOnceByInit : Prop :=
  ∀ (s t : State) (p : Pipe) (g : Nat), step s = .next t → (∀ rest, s.inputs ≠ .reset :: rest) →
    (s.gen.get p = some g → t.gen.get p = some g) ∧
    (s.gen.get p = none → t.gen.get p = some g →
      ∃ l, s.phase = .busy ∧ s.latch = some l ∧ decode l.word = .ok (.init p) ∧ t.hr.err = .ok ∧
        s.cfg.resolveChip l.args.chipId = some g)

/-- R49, R251: only a reset, a successful SETPATH, or a successful PROGSCALE SHRINK whose latched geometry is a downscale
(`down` of R260) moves the path mirror, and to these values. -/
def Obligations.PathMovesOnlyByScalerCommands : Prop :=
  ∀ s t : State, step s = .next t → t.path ≠ s.path →
    (∃ rest, s.inputs = .reset :: rest ∧ t.path = .unknown) ∨
    (∃ l i, s.phase = .busy ∧ s.latch = some l ∧ decode l.word = .ok i ∧ t.hr.err = .ok ∧
      ((∃ v, i = .setpath v ∧ t.path = mirrorOf v) ∨
        (i = .progscale .shrink ∧ isDownscale (scalingOf .shrink (srcSize l.args) (dstSize l.args)) = true ∧
          t.path = .dst)))

/-- R45: a Host access or an ExtDevWrite changes no result register, no mirror, no ERR and no event of the trace. -/
def Obligations.ResultsChangeOnlyAtCompletion : Prop :=
  ∀ (s t : State) (i : Input) (rest : List Input), s.inputs = i :: rest → i ≠ .engine → i ≠ .reset →
    step s = .next t → SameResults s t ∧ t.hr.err = s.hr.err ∧ t.bus.trace = s.bus.trace ∧ t.inputs = rest

/-! ## The bitfield engine -/

/-- R138: the read-back law of WriteValue, and the bits outside the fields kept. -/
def Obligations.WriteValueReadsBack : Prop :=
  ∀ (l : FieldList) (v : Nat) (bus : Bus), (∀ f ∈ l, f.lo ≤ f.hi ∧ f.hi ≤ 7) → disjointFields l = true →
    readValue l (writeValue l v bus) = v % 2 ^ fieldsWidth l ∧
    ∀ b o i, i < 8 → (∀ f ∈ l, f.bank = b → f.off = o → ¬ (f.lo ≤ i ∧ i ≤ f.hi)) →
      ((writeValue l v bus).peek b o).getLsbD i = (bus.peek b o).getLsbD i

/-- R134, R133: WriteValue issues exactly one RD and one WR a field, in list order, and touches no other register. -/
def Obligations.WriteValueEvents : Prop :=
  ∀ (l : FieldList) (v : Nat) (bus : Bus), Appends bus (writeValue l v bus) (listTouches l) ∧
    (writeValue l v bus).trace.length = bus.trace.length + 2 * l.length ∧
    KeepsOutside (regsOf l) bus (writeValue l v bus)

/-- R135: the bits of the value at or above the list's width change nothing, neither bytes nor events. -/
def Obligations.HighBitsAreDropped : Prop :=
  ∀ (l : FieldList) (v : Nat) (bus : Bus), writeValue l v bus = writeValue l (v % 2 ^ fieldsWidth l) bus

/-- R137: each literal byte's bits [hi:lo] become its field's bits, by position; the other bits are kept, and exactly
2 events a field are issued, in table order. -/
def Obligations.WriteLiteralPlacesBits : Prop :=
  ∀ (t : LitTable) (bus : Bus), (∀ c ∈ t, c.1.lo ≤ c.1.hi ∧ c.1.hi ≤ 7) →
    disjointFields (t.map Prod.fst) = true →
    (∀ c ∈ t, ∀ i, c.1.lo ≤ i → i ≤ c.1.hi →
      ((writeLiteral t bus).peek c.1.bank c.1.off).getLsbD i = c.2.getLsbD i) ∧
    (∀ b o i, i < 8 → (∀ c ∈ t, c.1.bank = b → c.1.off = o → ¬ (c.1.lo ≤ i ∧ i ≤ c.1.hi)) →
      ((writeLiteral t bus).peek b o).getLsbD i = (bus.peek b o).getLsbD i) ∧
    Appends bus (writeLiteral t bus) (listTouches (t.map Prod.fst))

/-- R139: WRVAL completes with VALUE written, as it is, through the list its IMM names, and nothing else changed; an IMM
of 16 or more is IllegalCommand. -/
def Obligations.WrvalWritesValue : Prop :=
  ∀ (s : State) (p : Pipe) (imm : BitVec 8) (l : Latch), s.latch = some l →
    (∀ t k, s.bound p = some t → CrtcParam.all[imm.toNat]? = some k →
      ∃ u, exec (.wrval p imm) s = .next u ∧ Finished (.wrval p imm) .ok s u ∧ SameResults s u ∧
        WroteList ((t.timing.get p).get k).list.fields l.args.value.toNat s.bus u.bus) ∧
    (∀ t j, s.bound p = some t → 12 ≤ imm.toNat → FifoParam.all[imm.toNat - 12]? = some j →
      ∃ u, exec (.wrval p imm) s = .next u ∧ Finished (.wrval p imm) .ok s u ∧ SameResults s u ∧
        WroteList ((t.fifoList.get p).get j).fields l.args.value.toNat s.bus u.bus) ∧
    (16 ≤ imm.toNat → Rejects (.wrval p imm) .illegalCommand s)

/-- R140: WRLIT completes with the literal table IMM of the bound generation written and nothing else changed; an IMM
outside the generation's tables is IllegalCommand, after the NotInitialized check. -/
def Obligations.WrlitWritesTable : Prop :=
  ∀ (s : State) (p : Pipe) (imm : BitVec 8) (l : Latch), s.latch = some l →
    (∀ t tab, s.bound p = some t → t.lit[imm.toNat]? = some tab →
      ∃ u, exec (.wrlit p imm) s = .next u ∧ Finished (.wrlit p imm) .ok s u ∧ SameResults s u ∧
        u.bus = writeLiteral tab s.bus ∧ Appends s.bus u.bus (listTouches (tab.map Prod.fst)) ∧
        KeepsOutside (regsOf (tab.map Prod.fst)) s.bus u.bus) ∧
    (∀ t, s.bound p = some t → t.lit.length ≤ imm.toNat → Rejects (.wrlit p imm) .illegalCommand s) ∧
    (s.gen.get p = none → Rejects (.wrlit p imm) .notInitialized s)

/-! ## INIT -/

/-- R160: INIT on a free pipe whose chip id resolves, to the generation of the other pipe where that is bound, completes
with the pipe bound, GENp reading VALID and the index, and no device event. -/
def Obligations.InitBindsGeneration : Prop :=
  ∀ (s : State) (p : Pipe) (l : Latch) (g : Nat), admitted s.cfg = true → s.latch = some l →
    s.gen.get p = none → s.cfg.resolveChip l.args.chipId = some g →
    (∀ g', s.gen.get p.other = some g' → g' = g) →
    ∃ t, exec (.init p) s = .next t ∧ Finished (.init p) .ok s t ∧ t.gen = s.gen.set p (some g) ∧
      (readReg t (.gen p)).toNat = 2 ^ 31 + g ∧ SameHostResults s t ∧ t.scale = s.scale ∧ t.path = s.path ∧
      t.bus = s.bus

/-- R160: INIT on a bound pipe is AlreadyInitialized; on a free one, a chip id that resolves to nothing, or to another
generation than the other pipe's, is UnsupportedDevice; each leaves everything but STATUS. -/
def Obligations.InitRejects : Prop :=
  ∀ (s : State) (p : Pipe) (l : Latch), s.latch = some l →
    (∀ g, s.gen.get p = some g → Rejects (.init p) .alreadyInitialized s) ∧
    (s.gen.get p = none → s.cfg.resolveChip l.args.chipId = none → Rejects (.init p) .unsupportedDevice s) ∧
    (∀ g g', s.gen.get p = none → s.cfg.resolveChip l.args.chipId = some g → s.gen.get p.other = some g' →
      g' ≠ g → Rejects (.init p) .unsupportedDevice s)

/-! ## PROGTIM -/

/-- R171, R174: PROGTIM completes, where the path-select guard admits it, with all twelve parameters written in order
and nothing else changed. -/
def Obligations.ProgtimLoadsTiming : Prop :=
  ∀ (s : State) (p : Pipe) (sel : TimingSel) (l : Latch) (t : GenTables), s.latch = some l → s.bound p = some t →
    (sel = .synth → p = s.cfg.scalerPipe) → (p = s.cfg.scalerPipe → (sel = .synth ↔ s.path = .src)) →
    ∃ u, exec (.progtim p sel) s = .next u ∧ Finished (.progtim p sel) .ok s u ∧ SameResults s u ∧
      u.bus = programTiming t p
        (match sel with
          | .mode => timingOf l.args.dT
          | .synth => s.cfg.synthSrc.apply (timingOf l.args.sT)) s.bus ∧
      Appends s.bus u.bus ((timingLists t p).flatMap listTouches) ∧
      KeepsOutside ((timingLists t p).flatMap regsOf) s.bus u.bus

/-- R175, R302: SYNTH off the scaler pipe is IllegalCommand, bound or not; on the scaler pipe, MODE while the path is
SRC and SYNTH while it is not are PathMismatch; each leaves everything but STATUS. -/
def Obligations.ProgtimPathGuard : Prop :=
  ∀ (s : State) (p : Pipe) (l : Latch), s.latch = some l →
    (p ≠ s.cfg.scalerPipe → Rejects (.progtim p .synth) .illegalCommand s) ∧
    (∀ t, s.bound p = some t → p = s.cfg.scalerPipe → s.path = .src →
      Rejects (.progtim p .mode) .pathMismatch s) ∧
    (∀ t, s.bound p = some t → p = s.cfg.scalerPipe → s.path ≠ .src →
      Rejects (.progtim p .synth) .pathMismatch s)

/-- R172: on an admitted generation whose twelve lists of a pipe share no bit, each list reads back, after
ProgramTiming, the low wT bits of floor(T / div) - bias in two's complement. -/
def Obligations.ProgramTimingReadsBack : Prop :=
  ∀ (c : Cfg) (t : GenTables) (p : Pipe) (v : Timing) (bus : Bus), genOk c t = true →
    disjointFields (timingLists t p).flatten = true →
    ∀ k, (readValue ((t.timing.get p).get k).list.fields (programTiming t p v bus) : Int) =
      (((v.get k / ((t.timing.get p).get k).div : Nat) : Int) - ((t.timing.get p).get k).bias) %
        ((2 ^ ((t.timing.get p).get k).list.width : Nat) : Int)

/-- R173: the three formulas that the document fixes, in every admitted generation. -/
def Obligations.DocumentTimingFormulas : Prop :=
  ∀ (c : Cfg) (t : GenTables) (v : Nat), genOk c t = true →
    (timingReg t.timing.primary.htotal v : Int) =
      (((v / 8 : Nat) : Int) - 5) % ((2 ^ t.timing.primary.htotal.list.width : Nat) : Int) ∧
    (timingReg t.timing.primary.vtotal v : Int) =
      ((v : Int) - 2) % ((2 ^ t.timing.primary.vtotal.list.width : Nat) : Int) ∧
    (timingReg t.timing.secondary.htotal v : Int) =
      ((v : Int) - 1) % ((2 ^ t.timing.secondary.htotal.list.width : Nat) : Int)

/-! ## SYNPLL -/

/-- R197, R41: SYNPLL completes with the searched entry programmed, and PLL_INDEX, PLL_CODE and PLL_FREQ hold and read
its index, code and frequency, exact; a generation with no PLL table is UnsupportedDevice. -/
def Obligations.SynpllProgramsSearchedEntry : Prop :=
  ∀ (s : State) (p : Pipe) (l : Latch) (t : GenTables), admitted s.cfg = true → s.latch = some l →
    s.bound p = some t →
    (∀ c, t.pll = some c →
      ∃ e u, c.table[pllSearch (l.args.dClockKhz.toNat * 1000) c.table]? = some e ∧
        exec (.synpll p) s = .next u ∧ Finished (.synpll p) .ok s u ∧
        u.hr.pll.index.toNat = pllSearch (l.args.dClockKhz.toNat * 1000) c.table ∧
        u.hr.pll.code.toNat = pllCode c.enc e ∧ u.hr.pll.freq.toNat = outputFreq e ∧
        (readReg u .pllIndex).toNat = pllSearch (l.args.dClockKhz.toNat * 1000) c.table ∧
        (readReg u .pllCode).toNat = pllCode c.enc e ∧ (readReg u .pllFreq).toNat = outputFreq e ∧
        u.hr.fifo = s.hr.fifo ∧ u.gen = s.gen ∧ u.scale = s.scale ∧ u.path = s.path ∧
        u.bus = programPll s.cfg.tPllWait p (pllCode c.enc e) c s.bus ∧
        KeepsOutside (pllTouched c p) s.bus u.bus) ∧
    (t.pll = none → Rejects (.synpll p) .unsupportedDevice s)

/-- R195, R196: the events of ProgramPLL, in order: reset asserted, clock disabled, divider bytes low byte first, clock
enabled, reset released, one WAIT, sync bits cleared; each RMW keeps the other bits of its register. -/
def Obligations.PllSequenceOrder : Prop :=
  ∀ (n : Nat) (p : Pipe) (code : Nat) (c : PllCfg) (bus : Bus), c.rst.bit ≤ 7 → (c.clkEn.get p).bit ≤ 7 →
    (c.divRegs.get p).length = pllBytes c.enc →
    ∃ r1 w1 r2 w2 r4 w4 r5 w5 r7 w7 : Byte,
      (programPll n p code c bus).trace = bus.trace ++
        [.rd c.rst.bank c.rst.off r1, .wr c.rst.bank c.rst.off w1,
         .rd (c.clkEn.get p).bank (c.clkEn.get p).off r2, .wr (c.clkEn.get p).bank (c.clkEn.get p).off w2] ++
        (c.divRegs.get p).zipIdx.map
          (fun x => .wr x.1.bank x.1.off (BitVec.ofNat 8 (code / 2 ^ (8 * x.2)))) ++
        [.rd (c.clkEn.get p).bank (c.clkEn.get p).off r4, .wr (c.clkEn.get p).bank (c.clkEn.get p).off w4,
         .rd c.rst.bank c.rst.off r5, .wr c.rst.bank c.rst.off w5, .wait n,
         .rd c.syncPol.bank c.syncPol.off r7, .wr c.syncPol.bank c.syncPol.off w7] ∧
      w1.getLsbD c.rst.bit = c.rstOn ∧ w2.getLsbD (c.clkEn.get p).bit = !c.clkOn ∧
      w4.getLsbD (c.clkEn.get p).bit = c.clkOn ∧ w5.getLsbD c.rst.bit = !c.rstOn ∧ w7 &&& c.syncMask = 0#8 ∧
      (∀ i, i < 8 → i ≠ c.rst.bit → w1.getLsbD i = r1.getLsbD i ∧ w5.getLsbD i = r5.getLsbD i) ∧
      (∀ i, i < 8 → i ≠ (c.clkEn.get p).bit → w2.getLsbD i = r2.getLsbD i ∧ w4.getLsbD i = r4.getLsbD i) ∧
      w7 &&& ~~~c.syncMask = r7 &&& ~~~c.syncMask

/-- R198: the chosen entry is at least as close to the target as every entry, and strictly closer than every entry of a
lower index. -/
def Obligations.SearchFindsNearestEntry : Prop :=
  ∀ (table : List PllEntry) (t : Nat), table ≠ [] →
    ∃ e, table[pllSearch t table]? = some e ∧
      ∀ (j : Nat) (f : PllEntry), table[j]? = some f →
        ((outputFreq e : Int) - t).natAbs ≤ ((outputFreq f : Int) - t).natAbs ∧
        (j < pllSearch t table → ((outputFreq e : Int) - t).natAbs < ((outputFreq f : Int) - t).natAbs)

/-- R193, R194: the fields of the divider word of a fitting entry never overlap, so the word is their sum, and it fits
its divider bytes. -/
def Obligations.DividerWordFieldsApart : Prop :=
  ∀ (enc : PllEnc) (e : PllEntry), pllFits enc e = true →
    pllCode enc e =
      (match enc with
        | .A => e.mult * 2 ^ 8 + e.shift * 2 ^ 6 + e.div
        | .B => (e.div - 2) * 2 ^ 16 + e.shift * 2 ^ 10 + (e.mult - 2)
        | .C => e.div * 2 ^ 16 + e.shift * 2 ^ 10 + e.mult) ∧
    pllCode enc e < 2 ^ (8 * pllBytes enc)

/-! ## TUNEFIFO -/

/-- R223, R224, R42: TUNEFIFO completes with the constants of its key, unquantized, held and read in the result registers
FIFO_MAXDEPTH, FIFO_THR, FIFO_HTHR and FIFO_EXPIRE, and divided by 4, rounded down, in the device lists; a key with no
entry is UnsupportedDevice. -/
def Obligations.TunefifoWritesConstants : Prop :=
  ∀ (s : State) (p : Pipe) (l : Latch) (t : GenTables), admitted s.cfg = true → s.latch = some l →
    s.bound p = some t →
    (∀ f, t.fifoAt ⟨p, tier s.cfg.tierInclusive l.args.dT.hdisplay.toNat, l.args.depth, l.args.memTier⟩ = some f →
      ∃ u, exec (.tunefifo p) s = .next u ∧ Finished (.tunefifo p) .ok s u ∧
        (∀ j, (u.hr.fifo.get j).toNat = f.get j) ∧ (readReg u (.fifo .maxDepth)).toNat = f.maxDepth ∧
        (readReg u (.fifo .threshold)).toNat = f.threshold ∧
        (readReg u (.fifo .highThreshold)).toNat = f.highThreshold ∧
        (readReg u (.fifo .expireNum)).toNat = f.expireNum ∧ u.hr.pll = s.hr.pll ∧ u.gen = s.gen ∧ u.scale = s.scale ∧
        u.path = s.path ∧ u.bus = programFifo (t.fifoList.get p) f s.bus ∧
        Appends s.bus u.bus ((fifoListsOf t p).flatMap listTouches) ∧
        KeepsOutside ((fifoListsOf t p).flatMap regsOf) s.bus u.bus ∧
        (disjointFields (fifoListsOf t p).flatten = true →
          ∀ j, readValue ((t.fifoList.get p).get j).fields u.bus =
            f.get j / 4 % 2 ^ ((t.fifoList.get p).get j).width)) ∧
    (t.fifoAt ⟨p, tier s.cfg.tierInclusive l.args.dT.hdisplay.toNat, l.args.depth, l.args.memTier⟩ = none →
      Rejects (.tunefifo p) .unsupportedDevice s)

/-- R225: two TUNEFIFO commands with equal pipe, generation, D_T[1], DEPTH and MEMTIER select the same constants and
write the same values to the same lists, whatever else differs. -/
def Obligations.TunefifoIsDeterministic : Prop :=
  ∀ (s s' u u' : State) (p : Pipe) (l l' : Latch), s.cfg = s'.cfg → s.gen.get p = s'.gen.get p →
    s.latch = some l → s'.latch = some l' → l.args.dT.hdisplay = l'.args.dT.hdisplay →
    l.args.depth = l'.args.depth → l.args.memTier = l'.args.memTier →
    exec (.tunefifo p) s = .next u → exec (.tunefifo p) s' = .next u' →
    u.hr.err = u'.hr.err ∧
    (u.hr.err = .ok → u.hr.fifo = u'.hr.fifo ∧
      ∃ t f, s.bound p = some t ∧ u.bus = programFifo (t.fifoList.get p) f s.bus ∧
        u'.bus = programFifo (t.fifoList.get p) f s'.bus)

/-- R226: on the generation that `midGen32` names, 1024 wide at 32 bits per pixel on pipe 0, TUNEFIFO returns the
source's constants wherever its table has the entry. -/
def Obligations.SourceFifoConstants : Prop :=
  ∀ (s : State) (l : Latch) (g : Nat) (t : GenTables) (f : FifoConsts), admitted s.cfg = true →
    s.cfg.midGen32 = some g → s.gen.get .p0 = some g → s.cfg.gens[g]? = some t → s.latch = some l →
    l.args.dT.hdisplay = 1024#16 → l.args.depth = 32#8 →
    t.fifoAt ⟨.p0, tier s.cfg.tierInclusive 1024, 32#8, l.args.memTier⟩ = some f →
    ∃ u, exec (.tunefifo .p0) s = .next u ∧ u.hr.err = .ok ∧ u.hr.fifo.maxDepth.toNat = 384 ∧
      u.hr.fifo.threshold.toNat = 328 ∧ u.hr.fifo.highThreshold.toNat = 296 ∧
      (u.hr.fifo.expireNum.toNat = 64 ∨ u.hr.fifo.expireNum.toNat = 128)

/-- R221: the tier of a width under both readings, at most 4, which differ only at the four thresholds. -/
def Obligations.TierOfEveryWidth : Prop :=
  ∀ h : Nat,
    tier true h = (if 1600 ≤ h then 4 else if 1400 ≤ h then 3 else if 1280 ≤ h then 2 else
      if 1024 ≤ h then 1 else 0) ∧
    tier false h = (if 1600 < h then 4 else if 1400 < h then 3 else if 1280 < h then 2 else
      if 1024 < h then 1 else 0) ∧
    (tier true h ≠ tier false h ↔ h = 1024 ∨ h = 1280 ∨ h = 1400 ∨ h = 1600)

/-! ## The scaling engine -/

/-- R246 (R243, R244, R247, R248, R249): COMPSCALE with a valid geometry completes with the exact factors and the mode
flags in the mirror, SCALE_H, SCALE_V and the bits of SCALE_MODE reading it (R43), the scaler lists written in order, and
nothing else changed. -/
def Obligations.CompscaleComputesFactors : Prop :=
  ∀ (s : State) (sel : ScaleSel) (l : Latch) (t : GenTables) (sh sv dh dv : Nat), s.latch = some l →
    s.bound s.cfg.scalerPipe = some t → sh = l.args.sT.hdisplay.toNat → sv = l.args.sT.vdisplay.toNat →
    dh = l.args.dT.hdisplay.toNat → dv = l.args.dT.vdisplay.toNat →
    0 < sh → 0 < sv → 0 < dh → 0 < dv → (sel = .expand → 2 ≤ dh ∧ 2 ≤ dv) →
    ∃ u hf vf, exec (.compscale sel) s = .next u ∧ Finished (.compscale sel) .ok s u ∧
      hf = (match sel with
        | .expand => (sh - 1) * 4096 / (dh - 1)
        | .shrink => if dh < sh then (sh - dh) * 4096 / dh else 0) ∧
      vf = (match sel with
        | .expand => (sv - 1) * 2048 / (dv - 1)
        | .shrink => if dv < sv then (sv - dv) * 2048 / dv else 0) ∧
      u.scale.hfac.toNat = hf ∧ u.scale.vfac.toNat = vf ∧
      (u.scale.hshr = true ↔ sel = .shrink ∧ hf ≠ 0) ∧ (u.scale.vshr = true ↔ sel = .shrink ∧ vf ≠ 0) ∧
      (u.scale.hexp = true ↔ sel = .expand ∧ hf ≠ 0) ∧ (u.scale.vexp = true ↔ sel = .expand ∧ vf ≠ 0) ∧
      (u.scale.bufshare = true ↔ sel = .shrink ∧ hf ≠ 0 ∧ 1024 < dh) ∧
      (readReg u .scaleH).toNat = hf ∧ (readReg u .scaleV).toNat = vf ∧
      ((readReg u .scaleMode).getLsbD 0 = true ↔ sel = .shrink ∧ hf ≠ 0) ∧
      ((readReg u .scaleMode).getLsbD 1 = true ↔ sel = .shrink ∧ vf ≠ 0) ∧
      ((readReg u .scaleMode).getLsbD 2 = true ↔ sel = .expand ∧ hf ≠ 0) ∧
      ((readReg u .scaleMode).getLsbD 3 = true ↔ sel = .expand ∧ vf ≠ 0) ∧
      ((readReg u .scaleMode).getLsbD 4 = true ↔ sel = .shrink ∧ hf ≠ 0 ∧ 1024 < dh) ∧
      (readReg u .scaleMode).extractLsb' 5 27 = 0#27 ∧
      SameHostResults s u ∧ u.gen = s.gen ∧ u.path = s.path ∧
      u.bus = writeScale t.scaler sel u.scale s.bus ∧
      Appends s.bus u.bus ((scaleLists t.scaler).flatMap listTouches) ∧
      KeepsOutside ((scaleLists t.scaler).flatMap regsOf) s.bus u.bus

/-- R245, R247, R249: on an admitted generation whose scaler lists share no bit, the device fields read back the low 12
and 11 bits of the factors, the direction, the buffer-sharing bit and the enables. -/
def Obligations.ScalerFieldsReadBack : Prop :=
  ∀ (c : Cfg) (t : GenTables) (sel : ScaleSel) (sc : ScalingState) (bus : Bus), genOk c t = true →
    disjointFields (scaleLists t.scaler).flatten = true →
    readValue t.scaler.hFac (writeScale t.scaler sel sc bus) = sc.hfac.toNat % 4096 ∧
    readValue t.scaler.vFac (writeScale t.scaler sel sc bus) = sc.vfac.toNat % 2048 ∧
    readValue t.scaler.hDir (writeScale t.scaler sel sc bus) = (if sel = .shrink then 1 else 0) ∧
    readValue t.scaler.vDir (writeScale t.scaler sel sc bus) = (if sel = .shrink then 1 else 0) ∧
    readValue t.scaler.bufShare (writeScale t.scaler sel sc bus) = (if sc.bufshare = true then 1 else 0) ∧
    readValue t.scaler.hEn (writeScale t.scaler sel sc bus) = (if sc.hfac = 0#32 then 0 else 1) ∧
    readValue t.scaler.vEn (writeScale t.scaler sel sc bus) = (if sc.vfac = 0#32 then 0 else 1)

/-- R242: a zero size, or under EXPAND a destination size below 2, is InvalidGeometry, in COMPSCALE and in PROGSCALE,
before any device event; with any other sizes neither reports it. -/
def Obligations.DegenerateGeometryRejected : Prop :=
  ∀ (s : State) (sel : ScaleSel) (l : Latch) (t : GenTables) (degenerate : Prop), s.latch = some l →
    s.bound s.cfg.scalerPipe = some t →
    (degenerate ↔ l.args.sT.hdisplay.toNat = 0 ∨ l.args.sT.vdisplay.toNat = 0 ∨ l.args.dT.hdisplay.toNat = 0 ∨
      l.args.dT.vdisplay.toNat = 0 ∨
      (sel = .expand ∧ (l.args.dT.hdisplay.toNat < 2 ∨ l.args.dT.vdisplay.toNat < 2))) →
    (degenerate → Rejects (.compscale sel) .invalidGeometry s ∧ Rejects (.progscale sel) .invalidGeometry s) ∧
    (¬ degenerate → ∀ u, (exec (.compscale sel) s = .next u ∨ exec (.progscale sel) s = .next u) →
      u.hr.err ≠ .error .invalidGeometry)

/-- R250: SETPATH completes with the device path-select field and the mirror set together, the field reading back the
configuration's code, PATH the mirror's, and nothing else changed. -/
def Obligations.SetpathWritesFieldAndMirror : Prop :=
  ∀ (s : State) (v : PathSel) (l : Latch) (t : GenTables), admitted s.cfg = true → s.latch = some l →
    s.bound s.cfg.scalerPipe = some t →
    ∃ u, exec (.setpath v) s = .next u ∧ Finished (.setpath v) .ok s u ∧
      u.path = (match v with | .dst => .dst | .src => .src | .none => .none) ∧
      (readReg u .path).toNat = (match v with | .dst => 0 | .src => 1 | .none => 2) ∧
      readValue t.scaler.path u.bus = t.scaler.pathEnc.code v ∧
      WroteList t.scaler.path (t.scaler.pathEnc.code v) s.bus u.bus ∧
      SameHostResults s u ∧ u.gen = s.gen ∧ u.scale = s.scale

/-- R260, R261: a downscaling PROGSCALE completes with the path at DST and the field holding its code; the bus is what the
scale, then DST, the destination timing (D_T), SRC, the synthetic source timing and DST write, in this order; the last
timing was loaded from a bus whose field held the code of SRC; and the events are those of these writes. -/
def Obligations.ProgscaleDownscaleEndsAtDst : Prop :=
  ∀ (s : State) (l : Latch) (t : GenTables) (sp : Pipe), admitted s.cfg = true → s.latch = some l →
    sp = s.cfg.scalerPipe → s.bound sp = some t →
    badGeometry .shrink (srcSize l.args) (dstSize l.args) = false →
    isDownscale (scalingOf .shrink (srcSize l.args) (dstSize l.args)) = true →
    ∃ u b, exec (.progscale .shrink) s = .next u ∧ Finished (.progscale .shrink) .ok s u ∧
      u.path = .dst ∧ u.scale = scalingOf .shrink (srcSize l.args) (dstSize l.args) ∧
      SameHostResults s u ∧ u.gen = s.gen ∧
      readValue t.scaler.path u.bus = t.scaler.pathEnc.dstCode ∧
      b = writePath t.scaler .src
        (programTiming t sp (timingOf l.args.dT)
          (writePath t.scaler .dst
            (writeScale t.scaler .shrink (scalingOf .shrink (srcSize l.args) (dstSize l.args)) s.bus))) ∧
      readValue t.scaler.path b = t.scaler.pathEnc.srcCode ∧
      u.bus = writePath t.scaler .dst
        (programTiming t sp (s.cfg.synthSrc.apply (timingOf l.args.sT)) b) ∧
      Appends s.bus u.bus
        ((scaleLists t.scaler).flatMap listTouches ++ listTouches t.scaler.path ++
          (timingLists t sp).flatMap listTouches ++ listTouches t.scaler.path ++
          (timingLists t sp).flatMap listTouches ++ listTouches t.scaler.path) ∧
      KeepsOutside ((scaleLists t.scaler ++ [t.scaler.path] ++ timingLists t sp).flatMap regsOf) s.bus u.bus

/-- R260: a PROGSCALE that is not a downscale completes, unless the path is SRC, with the scale and the destination
timing loaded and no path-select write; while the path is SRC it is PathMismatch. -/
def Obligations.ProgscaleWithoutDownscale : Prop :=
  ∀ (s : State) (sel : ScaleSel) (l : Latch) (t : GenTables) (sp : Pipe), s.latch = some l →
    sp = s.cfg.scalerPipe → s.bound sp = some t →
    badGeometry sel (srcSize l.args) (dstSize l.args) = false →
    isDownscale (scalingOf sel (srcSize l.args) (dstSize l.args)) = false →
    (s.path ≠ .src →
      ∃ u, exec (.progscale sel) s = .next u ∧ Finished (.progscale sel) .ok s u ∧
        u.path = s.path ∧ u.scale = scalingOf sel (srcSize l.args) (dstSize l.args) ∧
        SameHostResults s u ∧ u.gen = s.gen ∧
        u.bus = programTiming t sp (timingOf l.args.dT) (writeScale t.scaler sel u.scale s.bus) ∧
        Appends s.bus u.bus
          ((scaleLists t.scaler).flatMap listTouches ++ (timingLists t sp).flatMap listTouches) ∧
        KeepsOutside ((scaleLists t.scaler ++ timingLists t sp).flatMap regsOf) s.bus u.bus) ∧
    (s.path = .src → Rejects (.progscale sel) .pathMismatch s)

/-- R347: the manual sequence issues the events of a downscaling PROGSCALE and ends with the same device bytes, result
registers and mirrors. -/
def Obligations.ManualDownscaleEqualsProgscale : Prop :=
  ∀ (s : State) (t : GenTables), s.bound s.cfg.scalerPipe = some t →
    badGeometry .shrink (srcSize s.hr.args) (dstSize s.hr.args) = false →
    isDownscale (scalingOf .shrink (srcSize s.hr.args) (dstSize s.hr.args)) = true →
    ∃ a b, issueAll s [.compscale .shrink, .setpath .dst, .progtim s.cfg.scalerPipe .mode, .setpath .src,
        .progtim s.cfg.scalerPipe .synth, .setpath .dst] = .next a ∧
      issueAll s [.progscale .shrink] = .next b ∧ a.bus = b.bus ∧ SameResults b a ∧ a.hr.err = b.hr.err ∧
      a.hr.args = b.hr.args ∧ a.cfg = b.cfg ∧ a.phase = b.phase

/-! ## The host window -/

/-- R33: the register at every offset of the window, D_T[k] and S_T[k] in the order of R18. -/
def Obligations.WindowMap : Prop :=
  (∀ r : HostReg, r ≠ .reserved → HostReg.atOffset r.offset = r ∧ r.offset % 4 = 0 ∧ r.offset < 0xD4) ∧
  (∀ off, 0xD4 ≤ off → HostReg.atOffset off = .reserved) ∧
  [HostReg.cmd, .status, .chipId, .memTier, .depth, .pitch, .value, .dClockKhz, .dRefresh, .dFlags, .gen .p0, .gen .p1,
    .pllIndex, .pllCode, .pllFreq, .fifo .maxDepth, .fifo .threshold, .fifo .highThreshold, .fifo .expireNum, .scaleH,
    .scaleV, .scaleMode, .path].map HostReg.offset =
  [0x000, 0x004, 0x008, 0x00C, 0x010, 0x014, 0x018, 0x050, 0x054, 0x058, 0x0A0, 0x0A4, 0x0A8, 0x0AC, 0x0B0, 0x0B4,
    0x0B8, 0x0BC, 0x0C0, 0x0C4, 0x0C8, 0x0CC, 0x0D0] ∧
  (∀ x ∈ [CrtcParam.htotal, .hdisplay, .hblankStart, .hblankEnd, .hsyncStart, .hsyncEnd, .vtotal, .vdisplay,
      .vblankStart, .vblankEnd, .vsyncStart, .vsyncEnd].zipIdx,
    (HostReg.dT x.1).offset = 0x020 + 4 * x.2 ∧ (HostReg.sT x.1).offset = 0x060 + 4 * x.2) ∧
  ∀ off ∈ [0x01C, 0x05C, 0x090, 0x094, 0x098, 0x09C], HostReg.atOffset off = .reserved

/-- R37: a CMD write in IDLE, of any word, is accepted with the argument snapshot, DONE cleared and BUSY set, and CMD
reads it; in BUSY it is discarded, sets OVR, and CMD keeps the accepted word. -/
def Obligations.CmdWriteAcceptsOrOverruns : Prop :=
  ∀ (s : State) (w : Word) (rest : List Input), admitted s.cfg = true →
    s.inputs = .hostWrite s.cfg.hostBase 4 w :: rest →
    (s.phase = .idle → step s = .next
      { s with
        inputs := rest
        hr := { s.hr with cmd := w, done := false }
        latch := some ⟨w, s.hr.args⟩
        phase := .busy }) ∧
    (s.phase = .busy → step s = .next { s with inputs := rest, hr := { s.hr with ovr := true } }) ∧
    (∀ t, step s = .next t →
      readReg t .cmd = (if s.phase = .idle then w else readReg s .cmd) ∧ (readReg t .status).getLsbD 0 = true ∧
      (s.phase = .idle → (readReg t .status).getLsbD 1 = false) ∧
      (s.phase = .busy → (readReg t .status).getLsbD 2 = true))

/-- R39: a STATUS write clears DONE by bit 1 and OVR by bit 2, and changes nothing else. -/
def Obligations.StatusWriteClearsSticky : Prop :=
  ∀ (s : State) (w : Word) (rest : List Input), admitted s.cfg = true →
    s.inputs = .hostWrite (s.cfg.hostBase + 4) 4 w :: rest →
    ∃ t, step s = .next t ∧
      t = { s with inputs := rest, hr := { s.hr with done := t.hr.done, ovr := t.hr.ovr } } ∧
      (t.hr.done = true ↔ s.hr.done = true ∧ w.getLsbD 1 = false) ∧
      (t.hr.ovr = true ↔ s.hr.ovr = true ∧ w.getLsbD 2 = false)

/-- R38, R300: the fields of the STATUS word, and the code that each verdict has in ERR. -/
def Obligations.StatusWordFields : Prop :=
  ∀ s : State, ((readReg s .status).getLsbD 0 = true ↔ s.phase = .busy) ∧
    (readReg s .status).getLsbD 1 = s.hr.done ∧ (readReg s .status).getLsbD 2 = s.hr.ovr ∧
    (readReg s .status).getLsbD 3 = false ∧ (readReg s .status).extractLsb' 4 4 = s.hr.err.code ∧
    (readReg s .status).extractLsb' 8 24 = 0#24 ∧
    ((readReg s .status).extractLsb' 4 4).toNat =
      (match s.hr.err with
        | .ok => 0
        | .error .unsupportedDevice => 1
        | .error .invalidGeometry => 2
        | .error .illegalCommand => 3
        | .error .notInitialized => 4
        | .error .pathMismatch => 5
        | .error .alreadyInitialized => 6)

/-- R34, R80: a Host read gives the register's value and has no side effect; a reserved register reads 0. -/
def Obligations.HostReadHasNoSideEffect : Prop :=
  ∀ (s : State) (off : Nat) (rest : List Input), admitted s.cfg = true → off % 4 = 0 → off < 0x100 →
    s.inputs = .hostRead (s.cfg.hostBase + off) 4 :: rest →
    ∃ v, step s = .next { s with inputs := rest, replies := s.replies ++ [⟨off, v⟩] } ∧
      v = readReg s (HostReg.atOffset off) ∧ (HostReg.atOffset off = .reserved → v = 0#32)

/-- R34, R70: a Host write at a decoded offset writes the register there; a write to an argument register stores its used
bits in full and changes no other register and nothing else; a write to a read-only or reserved register changes
nothing. -/
def Obligations.RegisterWriteStoresUsedBits : Prop :=
  (∀ (s : State) (off : Nat) (w : Word) (rest : List Input), admitted s.cfg = true → off % 4 = 0 → off < 0x100 →
    s.inputs = .hostWrite (s.cfg.hostBase + off) 4 w :: rest →
    step s = .next (writeReg { s with inputs := rest } (HostReg.atOffset off) w)) ∧
  ∀ (s : State) (r : HostReg) (w : Word),
    (∀ m, usedMask r = some m → readReg (writeReg s r w) r = w &&& m ∧
      (∀ r', r' ≠ r → readReg (writeReg s r w) r' = readReg s r') ∧
      writeReg s r w = { s with hr := { s.hr with args := (writeReg s r w).hr.args } }) ∧
    (usedMask r = none → r ≠ .cmd → r ≠ .status → writeReg s r w = s)

/-- R70, R71: an access is refused exactly when its width is not 4, its offset is not aligned or it is outside the
window. -/
def Obligations.UndecodedAccessRefused : Prop :=
  ∀ (s : State) (addr width : Nat) (v : Word) (rest : List Input), admitted s.cfg = true →
    (s.inputs = .hostRead addr width :: rest ∨ s.inputs = .hostWrite addr width v :: rest) →
    (step s = .refused .hostUndecoded ↔
      ¬ (width = 4 ∧ ∃ off, addr = s.cfg.hostBase + off ∧ off % 4 = 0 ∧ off < 0x100)) ∧
    ((∃ t, step s = .next t) ∨ step s = .refused .hostUndecoded)

/-! ## Reset and the surrounding software -/

/-- R330, R331, R332: a reset in IDLE leaves every register at its reset value, the pipes unbound, the latch empty and
the device space and the trace as they were; in BUSY it is the fault ResetWhileBusy. -/
def Obligations.ResetRestoresOwnState : Prop :=
  ∀ (s : State) (rest : List Input), admitted s.cfg = true → s.inputs = .reset :: rest →
    (s.phase = .idle → ∃ t, step s = .next t ∧ (∀ r, readReg t r = if r = .path then 3#32 else 0#32) ∧
      t.phase = .idle ∧ t.latch = none ∧ (∀ p, t.gen.get p = none) ∧ t.path = .unknown ∧ t.bus = s.bus ∧
      t.cfg = s.cfg ∧ t.inputs = rest) ∧
    (s.phase = .busy → step s = .fault .resetWhileBusy)

/-- R33, R54: right after reset PATH reads 3 and every other register 0, the Engine is IDLE and no pipe is bound. -/
def Obligations.ResetRegisterValues : Prop :=
  (∀ r, readReg State.reset r = if r = .path then 3#32 else 0#32) ∧ State.reset.phase = .idle ∧
  State.reset.latch = none ∧ (∀ p, State.reset.gen.get p = none) ∧ State.reset.path = .unknown ∧
  State.reset.scale = ⟨false, false, false, false, false, 0, 0⟩

/-- R343: an ExtDevWrite in IDLE sets one device byte, appends no event and changes nothing else; in BUSY it has no move
(the fault is the model's form of that, log 12). -/
def Obligations.ExtDevWriteOnlyInIdle : Prop :=
  ∀ (s : State) (b : Bank) (o : Offset) (v : Byte) (rest : List Input), admitted s.cfg = true →
    s.inputs = .extDevWrite b o v :: rest →
    (s.phase = .idle → s.cfg.banks.contains b = true →
      ∃ t, step s = .next t ∧ t.bus.peek b o = v ∧ KeepsOutside [⟨b, o⟩] s.bus t.bus ∧
        t.bus.trace = s.bus.trace ∧ t = { s with inputs := rest, bus := t.bus }) ∧
    (s.phase = .busy → step s = .fault .extDevWriteWhileBusy)

/-- R345, over the model's list of completions (log 17, 18): no pipe is ready to enable in BUSY, where a command is
accepted and not completed (R343); a pipe without the scaler is ready right after a PROGTIM MODE of it with ERR = 0 where
no SYNPLL of it was issued and none of its commands was UnsupportedDevice; the scaler's pipe, if ready when a PROGSCALE
was accepted, is ready again once that has completed with ERR = 0; a pipe is not ready one command after a TUNEFIFO of
it was UnsupportedDevice (duty 3), nor right after a PROGTIM of it where a SYNPLL of it was issued before (duty 4). -/
def Obligations.ReadyAfterModeSet : Prop :=
  (∀ (s : State) (p : Pipe), s.phase = .busy → s.readyToEnable p = false) ∧
  ∀ (s t : State) (p : Pipe) (i : Instr), exec i s = .next t →
    (i = .progtim p .mode → t.hr.err = .ok → p ≠ s.cfg.scalerPipe →
      (∀ c ∈ s.history, c.cmd ≠ some (.synpll p) ∧ c.unsupportedOn s.cfg p = false) → t.readyToEnable p = true) ∧
    (∀ sel (s₀ : State) w, i = .progscale sel → t.hr.err = .ok → p = s.cfg.scalerPipe → s = s₀.accept w →
      s₀.readyToEnable p = true → t.readyToEnable p = true) ∧
    (∀ h, s.history = h ++ [⟨some (.tunefifo p), .error .unsupportedDevice⟩] → t.readyToEnable p = false) ∧
    (∀ sel, i = .progtim p sel → (∃ c ∈ s.history, c.cmd = some (.synpll p)) → t.readyToEnable p = false)

/-! ## Host programs -/

/-- R110, R111: the expansions of the pseudo-instructions, the `waitidle` loop (one read of STATUS a turn, again exactly
while it shows BUSY = 1), and `issue` of any word in IDLE: the word is accepted, every poll before the Engine's turn
reads STATUS with BUSY = 1, the Engine executes it, and the next poll ends the loop. The number of polls and whatever
actions follow are free (log 23). -/
def Obligations.IssueWaitsForItsCommand : Prop :=
  (∀ w, (HostLine.issue w).acts = [.write 0 w, .pollIdle]) ∧ HostLine.waitIdle.acts = [.pollIdle] ∧
  (∀ i, (HostLine.command i).acts = (HostLine.issue (encode i)).acts) ∧ HostLine.clrStat.acts = [.write 4 0x6#32] ∧
  (∀ p, (HostLine.modeset p).acts = programActs
    [.command (.progtim p .mode), .command (.synpll p), .command (.tunefifo p)]) ∧
  HostLine.downscale.acts = (HostLine.command (.progscale .shrink)).acts ∧
  HostLine.upscale.acts = (HostLine.command (.progscale .expand)).acts ∧
  (∀ (s : State) (rest : List HostAct), admitted s.cfg = true →
    takeTurn ⟨s, .pollIdle :: rest⟩ .host = .next
      ⟨{ s with replies := s.replies ++ [⟨4, readReg s .status⟩] },
        if s.phase = .busy then .pollIdle :: rest else rest⟩) ∧
  ∀ (s u : State) (w : Word) (rest : List HostAct) (n : Nat), admitted s.cfg = true → s.phase = .idle →
    execute { s.accept w with
      replies := s.replies ++ List.replicate n ⟨4, readReg (s.accept w) .status⟩ } = .next u →
    takeTurns (.host :: List.replicate n .host ++ [.other .engine, .host]) ⟨s, (HostLine.issue w).acts ++ rest⟩ =
      .next ⟨{ u with replies := u.replies ++ [⟨4, readReg u .status⟩] }, rest⟩ ∧
    (readReg (s.accept w) .status).getLsbD 0 = true ∧ (readReg u .status).getLsbD 0 = false
end

