-- ==== Sys2Proof/Laws/Memory.lean ====
section
/-! SUPPORT. Device memory: what a write does to every address, and that it keeps the canonical form. -/

namespace Sys2Proof.Machine

theorem Memory.read_drop_same (m : List Host.Cell) (a : Nat) : Memory.read (Memory.drop m a) a = Memory.unlisted := by
  induction m with
  | nil => rfl
  | cons c m ih =>
    obtain ⟨k, v⟩ := c
    by_cases h : k = a <;> simp [Memory.drop, Memory.read, h, ih]

theorem Memory.read_drop_other (m : List Host.Cell) {a b : Nat} (h : a ≠ b) :
    Memory.read (Memory.drop m a) b = Memory.read m b := by
  induction m with
  | nil => rfl
  | cons c m ih =>
    obtain ⟨k, v⟩ := c
    by_cases hk : k = a
    · have hkb : k ≠ b := fun e => h (hk ▸ e)
      simp [Memory.drop, Memory.read, hk, ih, h]
    · simp only [Memory.drop, hk, if_false, Memory.read, ih]

theorem Memory.read_place_other (m : List Host.Cell) {a b : Nat} (v : Byte) (h : a ≠ b) :
    Memory.read (Memory.place m a v) b = Memory.read m b := by
  induction m with
  | nil => simp [Memory.place, Memory.read, h]
  | cons c m ih =>
    obtain ⟨k, w⟩ := c
    by_cases hk : a < k
    · simp [Memory.place, Memory.read, hk, h]
    · simp only [Memory.place, hk, if_false, Memory.read, ih]

theorem Memory.read_place_same (m : List Host.Cell) (a : Nat) (v : Byte) (h : a ∉ m.map Prod.fst) :
    Memory.read (Memory.place m a v) a = v := by
  induction m with
  | nil => simp [Memory.place, Memory.read]
  | cons c m ih =>
    obtain ⟨k, w⟩ := c
    simp only [List.map_cons, List.mem_cons, not_or] at h
    by_cases hk : a < k
    · simp [Memory.place, Memory.read, hk]
    · simp [Memory.place, Memory.read, hk, ih h.2, Ne.symm h.1]

theorem Memory.not_mem_drop (m : List Host.Cell) (a : Nat) : a ∉ (Memory.drop m a).map Prod.fst := by
  induction m with
  | nil => simp [Memory.drop]
  | cons c m ih =>
    obtain ⟨k, v⟩ := c
    by_cases h : k = a
    · simpa [Memory.drop, h] using ih
    · simpa [Memory.drop, h, Ne.symm h] using ih

theorem Memory.drop_sublist (m : List Host.Cell) (a : Nat) : (Memory.drop m a).Sublist m := by
  induction m with
  | nil => exact .slnil
  | cons c m ih =>
    obtain ⟨k, v⟩ := c
    by_cases h : k = a
    · simpa [Memory.drop, h] using ih.cons _
    · simpa [Memory.drop, h] using ih.cons_cons (k, v)

/-- A write is read back. -/
@[simp] theorem Memory.read_write_same (m : List Host.Cell) (a : Nat) (v : Byte) :
    Memory.read (Memory.write m a v) a = v := by
  by_cases h : v = Memory.unlisted
  · simp [Memory.write, h, Memory.read_drop_same]
  · simp [Memory.write, h, Memory.read_place_same _ _ _ (Memory.not_mem_drop m a)]

/-- A write leaves every other address alone. -/
theorem Memory.read_write_other (m : List Host.Cell) {a b : Nat} (v : Byte) (h : a ≠ b) :
    Memory.read (Memory.write m a v) b = Memory.read m b := by
  by_cases hv : v = Memory.unlisted
  · simp [Memory.write, hv, Memory.read_drop_other m h]
  · simp [Memory.write, hv, Memory.read_place_other _ v h, Memory.read_drop_other m h]

theorem Memory.mem_place (m : List Host.Cell) (a : Nat) (v : Byte) (c : Host.Cell) :
    c ∈ Memory.place m a v ↔ c = (a, v) ∨ c ∈ m := by
  induction m with
  | nil => simp [Memory.place]
  | cons d m ih =>
    obtain ⟨k, w⟩ := d
    by_cases h : a < k
    · simp [Memory.place, h]
    · simp only [Memory.place, h, if_false, List.mem_cons, ih]
      tauto

theorem Memory.place_sorted (m : List Host.Cell) (a : Nat) (v : Byte) (hm : (m.map Prod.fst).Pairwise (· < ·))
    (ha : a ∉ m.map Prod.fst) : ((Memory.place m a v).map Prod.fst).Pairwise (· < ·) := by
  induction m with
  | nil => simp [Memory.place]
  | cons d m ih =>
    obtain ⟨k, w⟩ := d
    simp only [List.map_cons, List.mem_cons, not_or, List.pairwise_cons] at hm ha
    by_cases h : a < k
    · simp only [Memory.place, h, if_true, List.map_cons, List.pairwise_cons]
      refine ⟨?_, hm⟩
      intro x hx
      rcases List.mem_cons.1 hx with hx | hx
      · exact hx ▸ h
      · exact lt_trans h (hm.1 x hx)
    · simp only [Memory.place, h, if_false, List.map_cons, List.pairwise_cons]
      refine ⟨?_, ih hm.2 ha.2⟩
      intro x hx
      obtain ⟨c, hc, rfl⟩ := List.mem_map.1 hx
      rcases (Memory.mem_place m a v c).1 hc with rfl | hc
      · exact lt_of_le_of_ne (not_lt.1 h) (Ne.symm ha.1)
      · exact hm.1 _ (List.mem_map_of_mem hc)

/-- Every write keeps the canonical form. -/
theorem Memory.write_wf {m : List Host.Cell} (a : Nat) (v : Byte) (h : Memory.wf m) :
    Memory.wf (Memory.write m a v) := by
  have hd : Memory.wf (Memory.drop m a) :=
    ⟨h.1.sublist ((Memory.drop_sublist m a).map _), fun c hc => h.2 c ((Memory.drop_sublist m a).subset hc)⟩
  by_cases hv : v = Memory.unlisted
  · rw [Memory.write, if_pos hv]; exact hd
  · simp only [Memory.write, hv, if_false]
    refine ⟨Memory.place_sorted _ a v hd.1 (Memory.not_mem_drop m a), fun c hc => ?_⟩
    rcases (Memory.mem_place _ a v c).1 hc with rfl | hc
    · exact hv
    · exact hd.2 c hc

theorem Memory.nil_wf : Memory.wf [] := ⟨by simp, by simp⟩

/-- The address of a device register determines the register (R72). -/
theorem devAddr_inj {b b' : Bank} {o o' : Offset} : devAddr b o = devAddr b' o' ↔ b = b' ∧ o = o' := by
  refine ⟨fun h => ?_, by rintro ⟨rfl, rfl⟩; rfl⟩
  have h1 : o.toNat < 256 := o.isLt
  have h2 : o'.toNat < 256 := o'.isLt
  simp only [devAddr] at h
  have hb : b = b' := by unfold Bank at *; omega
  refine ⟨hb, BitVec.eq_of_toNat_eq (by omega)⟩

end Sys2Proof.Machine
end

