-- ==== Sys2Proof/Laws/Bus.lean ====
section
/-! SUPPORT. The device bus: what each primitive and each field-list write does to the bytes and to the trace. -/

namespace Sys2Proof.Machine

variable (bus : Bus) (b b' : Bank) (o o' : Offset) (m v : Byte)

/-! ## Primitives -/

@[simp] theorem emit_dev (e : Event) : (bus.emit e).dev = bus.dev := rfl
@[simp] theorem emit_trace (e : Event) : (bus.emit e).trace = bus.trace ++ [e] := rfl
@[simp] theorem peek_emit (e : Event) : (bus.emit e).peek b o = bus.peek b o := rfl
@[simp] theorem peek_devRead : (bus.devRead b' o').peek b o = bus.peek b o := rfl
@[simp] theorem poke_trace : (bus.poke b o v).trace = bus.trace := rfl
@[simp] theorem devRead_dev : (bus.devRead b o).dev = bus.dev := rfl
@[simp] theorem devRead_trace : (bus.devRead b o).trace = bus.trace ++ [.rd b o (bus.peek b o)] := rfl
@[simp] theorem devWrite_trace : (bus.devWrite b o v).trace = bus.trace ++ [.wr b o v] := rfl
@[simp] theorem wait_trace (t : Nat) : (bus.wait t).trace = bus.trace ++ [.wait t] := rfl
@[simp] theorem wait_dev (t : Nat) : (bus.wait t).dev = bus.dev := rfl
@[simp] theorem peek_wait (t : Nat) : (bus.wait t).peek b o = bus.peek b o := rfl

@[simp] theorem peek_poke_same : (bus.poke b o v).peek b o = v := by simp [Bus.poke, Bus.peek]

theorem peek_poke_other (h : RegAddr.mk b o ≠ ⟨b', o'⟩) : (bus.poke b' o' v).peek b o = bus.peek b o := by
  refine Memory.read_write_other _ _ fun e => h ?_
  obtain ⟨rfl, rfl⟩ := devAddr_inj.1 e
  rfl

@[simp] theorem peek_devWrite_same : (bus.devWrite b o v).peek b o = v := peek_poke_same bus b o v

theorem peek_devWrite_other (h : RegAddr.mk b o ≠ ⟨b', o'⟩) : (bus.devWrite b' o' v).peek b o = bus.peek b o :=
  peek_poke_other bus b b' o o' v h

@[simp] theorem peek_devRmw_same : (bus.devRmw b o m v).peek b o = merge (bus.peek b o) m v :=
  peek_poke_same _ b o _

theorem peek_devRmw_other (h : RegAddr.mk b o ≠ ⟨b', o'⟩) : (bus.devRmw b' o' m v).peek b o = bus.peek b o := by
  rw [Bus.devRmw, peek_devWrite_other _ _ _ _ _ _ h, peek_devRead]

@[simp] theorem devRmw_trace : (bus.devRmw b o m v).trace =
    bus.trace ++ [.rd b o (bus.peek b o), .wr b o (merge (bus.peek b o) m v)] := by
  simp [Bus.devRmw]

/-- A bit of a merged byte (R133). -/
theorem merge_getLsbD (t : Byte) (i : Nat) (hi : i < 8) :
    (merge t m v).getLsbD i = if m.getLsbD i then v.getLsbD i else t.getLsbD i := by
  cases hm : m.getLsbD i <;> simp only [merge, BitVec.getLsbD_or, BitVec.getLsbD_and, BitVec.getLsbD_not, hm, hi] <;> simp

/-! ## One principle for everything that the Engine does on the bus -/

/-- A relation that every bus primitive keeps, in every order. -/
structure BusClosed (R : Bus → Bus → Prop) : Prop where
  refl : ∀ s, R s s
  trans : ∀ s t u, R s t → R t u → R s u
  read : ∀ s b o, R s (s.devRead b o)
  write : ∀ s b o v, R s (s.devWrite b o v)
  wait : ∀ s n, R s (s.wait n)

section Closed

variable {R : Bus → Bus → Prop} (h : BusClosed R)
include h

theorem BusClosed.rmw : R bus (bus.devRmw b o m v) := h.trans _ _ _ (h.read bus b o) (h.write _ b o _)

theorem BusClosed.writeFrom (l : FieldList) : ∀ (bus : Bus) (cur w : Nat), R bus (writeFrom cur w l bus) := by
  induction l with
  | nil => exact fun bus _ _ => h.refl bus
  | cons f fs ih => exact fun bus cur w => h.trans _ _ _ (h.rmw bus _ _ _ _) (ih _ _ _)

theorem BusClosed.writeValue (l : FieldList) (w : Nat) : R bus (writeValue l w bus) := h.writeFrom l bus 0 w

theorem BusClosed.writeLiteral (t : LitTable) : ∀ bus : Bus, R bus (writeLiteral t bus) := by
  induction t with
  | nil => exact h.refl
  | cons c t ih => exact fun bus => h.trans _ _ _ (h.rmw bus _ _ _ _) (ih _)

theorem BusClosed.programParams (tab : Crtc TimingEntry) (t : Timing) (ks : List CrtcParam) :
    ∀ bus : Bus, R bus (programParams tab t ks bus) := by
  induction ks with
  | nil => exact h.refl
  | cons k ks ih => exact fun bus => h.trans _ _ _ (h.writeValue bus _ _) (ih _)

theorem BusClosed.programTiming (g : GenTables) (p : Pipe) (t : Timing) : R bus (programTiming g p t bus) :=
  h.programParams _ _ _ bus

theorem BusClosed.writeDividers (code : Nat) (rs : List RegAddr) :
    ∀ (bus : Bus) (i : Nat), R bus (writeDividers code i rs bus) := by
  induction rs with
  | nil => exact fun bus _ => h.refl bus
  | cons r rs ih => exact fun bus i => h.trans _ _ _ (h.write bus _ _ _) (ih _ _)

theorem BusClosed.programPll (n : Nat) (p : Pipe) (code : Nat) (c : PllCfg) : R bus (programPll n p code c bus) :=
  h.trans _ _ _ (h.rmw bus _ _ _ _) <| h.trans _ _ _ (h.rmw _ _ _ _ _) <|
    h.trans _ _ _ (h.writeDividers _ _ _ _) <| h.trans _ _ _ (h.rmw _ _ _ _ _) <|
    h.trans _ _ _ (h.rmw _ _ _ _ _) <| h.trans _ _ _ (h.wait _ _) (h.rmw _ _ _ _ _)

theorem BusClosed.programFifo (l : PerFifo SizedList) (f : FifoConsts) : R bus (programFifo l f bus) :=
  h.trans _ _ _ (h.writeValue bus _ _) <| h.trans _ _ _ (h.writeValue _ _ _) <|
    h.trans _ _ _ (h.writeValue _ _ _) (h.writeValue _ _ _)

theorem BusClosed.writeScale (c : ScalerCfg) (sel : ScaleSel) (sc : ScalingState) :
    R bus (writeScale c sel sc bus) :=
  h.trans _ _ _ (h.writeValue bus _ _) <| h.trans _ _ _ (h.writeValue _ _ _) <|
    h.trans _ _ _ (h.writeValue _ _ _) <| h.trans _ _ _ (h.writeValue _ _ _) <|
    h.trans _ _ _ (h.writeValue _ _ _) <| h.trans _ _ _ (h.writeValue _ _ _) (h.writeValue _ _ _)

theorem BusClosed.writePath (c : ScalerCfg) (p : PathSel) : R bus (writePath c p bus) := h.writeValue bus _ _

end Closed

/-! ## Relations that are closed -/

theorem replay_append (dev : List Host.Cell) (es fs : List Event) :
    replay dev (es ++ fs) = replay (replay dev es) fs := List.foldl_append

theorem readsTrue_append (fs : List Event) : ∀ (es : List Event) (dev : List Host.Cell),
    readsTrue dev (es ++ fs) ↔ readsTrue dev es ∧ readsTrue (replay dev es) fs
  | [], dev => by simp [readsTrue, replay]
  | .rd b o v :: es, dev => by
    simp only [List.cons_append, readsTrue, readsTrue_append fs es dev, and_assoc]
    rfl
  | .wr b o v :: es, dev => readsTrue_append fs es (Memory.write dev (devAddr b o) v)
  | .wait n :: es, dev => readsTrue_append fs es dev

/-- The device bytes follow the trace (R73, R74). -/
theorem busRuns_closed : BusClosed BusRuns where
  refl s := ⟨[], by simp [replay, readsTrue]⟩
  trans := by
    rintro s t u ⟨es, h1, h2, h3⟩ ⟨fs, h4, h5, h6⟩
    refine ⟨es ++ fs, by rw [h4, h1, List.append_assoc], by rw [replay_append, h5, h2], ?_⟩
    exact (readsTrue_append fs es s.dev).2 ⟨h3, h2 ▸ h6⟩
  read s b o := ⟨[.rd b o (s.peek b o)], rfl, rfl, rfl, trivial⟩
  write s b o v := ⟨[.wr b o v], rfl, rfl, trivial⟩
  wait s n := ⟨[.wait n], rfl, rfl, trivial⟩

/-- The canonical form of the device memory is kept. -/
theorem devWf_closed : BusClosed fun s t => Memory.wf s.dev → Memory.wf t.dev where
  refl _ := id
  trans _ _ _ h1 h2 := h2 ∘ h1
  read _ _ _ := id
  write _ _ _ _ := Memory.write_wf _ _
  wait _ _ := id

/-! ## The registers a write touches -/

theorem keepsOutside_refl (rs : List RegAddr) (s : Bus) : KeepsOutside rs s s := fun _ _ _ => rfl

theorem KeepsOutside.trans {rs : List RegAddr} {s t u : Bus} (h1 : KeepsOutside rs s t)
    (h2 : KeepsOutside rs t u) : KeepsOutside rs s u := fun b o h => (h2 b o h).trans (h1 b o h)

theorem KeepsOutside.mono {rs qs : List RegAddr} {s t : Bus} (h : KeepsOutside rs s t) (hs : rs ⊆ qs) :
    KeepsOutside qs s t := fun b o hb => h b o fun hm => hb (hs hm)

theorem devRmw_keepsOutside : KeepsOutside [⟨b, o⟩] bus (bus.devRmw b o m v) := fun b' o' h =>
  peek_devRmw_other bus b' b o' o m v (by simpa using h)

theorem devWrite_keepsOutside : KeepsOutside [⟨b, o⟩] bus (bus.devWrite b o v) := fun b' o' h =>
  peek_devWrite_other bus b' b o' o v (by simpa using h)

theorem writeFrom_keepsOutside (l : FieldList) : ∀ (bus : Bus) (cur w : Nat),
    KeepsOutside (regsOf l) bus (writeFrom cur w l bus) := by
  induction l with
  | nil => exact fun bus _ _ => keepsOutside_refl _ bus
  | cons f fs ih =>
    exact fun bus cur w => ((devRmw_keepsOutside bus _ _ _ _).mono (by simp [regsOf])).trans
      ((ih _ _ _).mono (by simp [regsOf]))

/-- WriteValue changes no byte outside the registers of its list. -/
theorem writeValue_keepsOutside (l : FieldList) (w : Nat) : KeepsOutside (regsOf l) bus (writeValue l w bus) :=
  writeFrom_keepsOutside l bus 0 w

theorem writeLiteral_keepsOutside (t : LitTable) :
    ∀ bus : Bus, KeepsOutside (regsOf (t.map Prod.fst)) bus (writeLiteral t bus) := by
  induction t with
  | nil => exact keepsOutside_refl _
  | cons c t ih =>
    exact fun bus => ((devRmw_keepsOutside bus _ _ _ _).mono (by simp [regsOf])).trans
      ((ih _).mono (by simp [regsOf]))

/-! ## The events a write issues -/

theorem appends_refl (s : Bus) : Appends s s [] := ⟨[], by simp⟩

theorem Appends.trans {s t u : Bus} {ts us : List Touch} (h1 : Appends s t ts) (h2 : Appends t u us) :
    Appends s u (ts ++ us) := by
  obtain ⟨es, a1, a2⟩ := h1
  obtain ⟨fs, b1, b2⟩ := h2
  exact ⟨es ++ fs, by rw [b1, a1, List.append_assoc], by rw [List.map_append, a2, b2]⟩

theorem devRmw_appends : Appends bus (bus.devRmw b o m v) [.rd b o, .wr b o] :=
  ⟨_, devRmw_trace bus b o m v, rfl⟩

theorem devWrite_appends : Appends bus (bus.devWrite b o v) [.wr b o] := ⟨_, rfl, rfl⟩

end Sys2Proof.Machine
end

