-- ==== Sys2Proof/Laws/Fields.lean ====
section
/-! SUPPORT. The bits of a device register after the field writes of 40_bitfield: what a field's mask and slice are, bit
by bit, and which bits an RMW through a field changes. -/

namespace Sys2Proof.Machine

/-- The bounds of a field (R130). -/
abbrev FieldOk (f : RegField) : Prop := f.lo ≤ f.hi ∧ f.hi ≤ 7

variable {f g : RegField}

/-- A field's mask has its bits and no other (R13). -/
theorem mask_getLsbD (h : FieldOk f) {i : Nat} (hi : i < 8) :
    f.mask.getLsbD i = decide (f.lo ≤ i ∧ i ≤ f.hi) := by
  obtain ⟨h1, h2⟩ := h
  simp only [RegField.mask, RegField.width, BitVec.getLsbD_ofNat, hi, decide_true, Bool.true_and,
    Nat.testBit_shiftLeft, Nat.testBit_two_pow_sub_one]
  by_cases a : f.lo ≤ i <;> by_cases b : i ≤ f.hi <;> simp [a, b] <;> omega

/-- A field takes the value's bits from the cursor on, low bit first (R134). -/
theorem slice_getLsbD (h : FieldOk f) (cur v : Nat) {i : Nat} (hi : i < 8) (a : f.lo ≤ i) (b : i ≤ f.hi) :
    (f.slice cur v).getLsbD i = v.testBit (cur + (i - f.lo)) := by
  obtain ⟨h1, h2⟩ := h
  have hw : i - f.lo < f.hi - f.lo + 1 := by omega
  simp only [RegField.slice, RegField.width, BitVec.getLsbD_ofNat]
  simp [hi, Nat.testBit_shiftLeft, a, Nat.testBit_mod_two_pow, Nat.testBit_shiftRight, hw]

/-- An RMW through a field changes the field's bits and no other bit of any register (R133). -/
theorem devRmw_getLsbD {bus : Bus} (h : FieldOk f) (w : Byte) (b : Bank) (o : Offset) {i : Nat} (hi : i < 8) :
    ((bus.devRmw f.bank f.off f.mask w).peek b o).getLsbD i =
      if f.bank = b ∧ f.off = o ∧ f.lo ≤ i ∧ i ≤ f.hi then w.getLsbD i else (bus.peek b o).getLsbD i := by
  by_cases e : f.bank = b ∧ f.off = o
  · obtain ⟨rfl, rfl⟩ := e
    rw [peek_devRmw_same, merge_getLsbD _ _ _ _ hi, mask_getLsbD h hi]
    simp
  · rw [peek_devRmw_other, if_neg (fun x => e ⟨x.1, x.2.1⟩)]
    rintro ⟨⟩
    exact e ⟨rfl, rfl⟩

/-- Fields that do not overlap share no bit (WF2). -/
theorem overlaps_false (h : f.overlaps g = false) (a : f.bank = g.bank) (b : f.off = g.off) :
    ¬ (f.lo ≤ g.hi ∧ g.lo ≤ f.hi) := by
  simpa [RegField.overlaps, a, b] using h

theorem disjointFields_cons {fs : FieldList} (h : disjointFields (f :: fs) = true) :
    (∀ g ∈ fs, f.overlaps g = false) ∧ disjointFields fs = true := by
  simpa [disjointFields] using h

/-- A field reads as a number whose bits stand in its place. -/
theorem fieldNow_eq (bus : Bus) (w : Nat) (h : FieldOk f) (hw : w < 2 ^ f.width)
    (hb : ∀ i, f.lo ≤ i → i ≤ f.hi → (bus.peek f.bank f.off).getLsbD i = w.testBit (i - f.lo)) :
    fieldNow f bus = w := by
  apply Nat.eq_of_testBit_eq
  intro j
  simp only [fieldNow, Nat.testBit_mod_two_pow, Nat.testBit_shiftRight]
  by_cases hj : j < f.width
  · have hbit := hb (f.lo + j) (by omega) (by simp [RegField.width] at hj; have := h.1; omega)
    simp only [hj, decide_true, Bool.true_and]
    rw [Nat.add_sub_cancel_left] at hbit
    exact hbit
  · have hz : w.testBit j = false :=
      Nat.testBit_lt_two_pow (lt_of_lt_of_le hw (Nat.pow_le_pow_right (by omega) (by omega)))
    simp [hj, hz]

/-- A field reads the same where its bits are the same. -/
theorem fieldNow_congr (h : FieldOk f) (s t : Bus)
    (hb : ∀ i, f.lo ≤ i → i ≤ f.hi → (s.peek f.bank f.off).getLsbD i = (t.peek f.bank f.off).getLsbD i) :
    fieldNow f s = fieldNow f t := by
  apply Nat.eq_of_testBit_eq
  intro j
  simp only [fieldNow, Nat.testBit_mod_two_pow, Nat.testBit_shiftRight]
  by_cases hj : j < f.width
  · have hbit := hb (f.lo + j) (by omega) (by simp [RegField.width] at hj; have := h.1; omega)
    simp only [hj, decide_true, Bool.true_and]
    exact hbit
  · simp [hj]

end Sys2Proof.Machine
end

