-- ==== Sys2Proof/Laws/Admission.lean ====
section
/-! SUPPORT. What the admission checks of 41_generation R152 give a proof, one lemma per use. -/

namespace Sys2Proof.Machine

variable {c : Cfg} {t : GenTables}

/-- A generation of an admitted configuration passes its checks. -/
theorem admitted_gen (h : admitted c = true) {g : Nat} (ht : c.gens[g]? = some t) : genOk c t = true := by
  simp only [admitted, Bool.and_eq_true, List.all_eq_true] at h
  exact h.1.1.2 t (List.mem_of_getElem? ht)

/-- WF11: a chip id resolves to a member of `Gen`. -/
theorem resolveChip_lt (h : admitted c = true) {x : BitVec 16} {g : Nat} (hr : c.resolveChip x = some g) :
    g < c.gens.length := by
  simp only [admitted, Bool.and_eq_true, wf11, List.all_eq_true, decide_eq_true_eq] at h
  simp only [Cfg.resolveChip, Option.map_eq_some_iff] at hr
  obtain ⟨r, hr, rfl⟩ := hr
  exact h.1.2 r (List.mem_of_find?_eq_some hr)

/-- At most 256 generations (R150). -/
theorem admitted_length (h : admitted c = true) : c.gens.length ≤ 256 := by
  simp only [admitted, Bool.and_eq_true, genCountOk, decide_eq_true_eq] at h
  exact h.1.1.1.2

/-- WF1: every field of every list and table is in bounds. -/
theorem genOk_fieldOk (h : genOk c t = true) : ∀ l ∈ t.allLists, ∀ f ∈ l, FieldOk f := by
  simp only [genOk, wf1, Bool.and_eq_true, List.all_eq_true, RegField.inBounds, decide_eq_true_eq] at h
  intro l hl f hf
  obtain ⟨⟨_, a⟩, b⟩ := h.1.1.1.1.1.1.1.1.1.1 l hl f hf
  exact ⟨a, b⟩

/-- WF2: no list or table overlaps itself. -/
theorem genOk_disjoint (h : genOk c t = true) : ∀ l ∈ t.allLists, disjointFields l = true := by
  simp only [genOk, Bool.and_eq_true, wf2, List.all_eq_true] at h
  exact h.1.1.1.1.1.1.1.1.2

theorem timing_mem (t : GenTables) (p : Pipe) (k : CrtcParam) : (t.timing.get p).get k ∈ t.timingEntries := by
  simp only [GenTables.timingEntries, List.mem_flatMap, PerPipe.toList, Crtc.toList, List.mem_map]
  exact ⟨t.timing.get p, by cases p <;> simp [PerPipe.get], k, by cases k <;> decide, rfl⟩

theorem fifo_mem (t : GenTables) (p : Pipe) (j : FifoParam) : (t.fifoList.get p).get j ∈ t.fifoLists := by
  simp only [GenTables.fifoLists, List.mem_flatMap, PerPipe.toList, PerFifo.toList, List.mem_map]
  exact ⟨t.fifoList.get p, by cases p <;> simp [PerPipe.get], j, by cases j <;> decide, rfl⟩

/-- WF3: a timing list has its declared width. -/
theorem genOk_timingWidth (h : genOk c t = true) (p : Pipe) (k : CrtcParam) :
    fieldsWidth ((t.timing.get p).get k).list.fields = ((t.timing.get p).get k).list.width := by
  simp only [genOk, wf3, Bool.and_eq_true, List.all_eq_true, widthOk, decide_eq_true_eq] at h
  exact (h.1.1.1.1.1.1.1.2.1.1.1.1.1.1 _ (timing_mem t p k)).1.1

/-- WF3: a FIFO list has its declared width. -/
theorem genOk_fifoWidth (h : genOk c t = true) (p : Pipe) (j : FifoParam) :
    fieldsWidth ((t.fifoList.get p).get j).fields = ((t.fifoList.get p).get j).width := by
  simp only [genOk, wf3, Bool.and_eq_true, List.all_eq_true, widthOk, decide_eq_true_eq] at h
  exact (h.1.1.1.1.1.1.1.2.1.1.1.1.1.2 _ (fifo_mem t p j)).1.1

/-- WF6 to WF8: what an admitted PLL configuration guarantees. -/
theorem genOk_pll (h : genOk c t = true) {q : PllCfg} (hq : t.pll = some q) :
    q.table ≠ [] ∧ q.table.length ≤ 65536 ∧ (∀ e ∈ q.table, outputFreq e < 2 ^ 32) ∧
      (∀ e ∈ q.table, pllFits q.enc e = true) ∧ ∀ p, (q.divRegs.get p).length = pllBytes q.enc := by
  simp only [genOk, Bool.and_eq_true] at h
  obtain ⟨⟨⟨⟨⟨h1, h6⟩, h7⟩, h8⟩, h9⟩, h10⟩ := h
  simp [wf6, hq] at h6
  simp [wf7, hq] at h7
  simp [wf8, hq, PerPipe.toList] at h8
  exact ⟨by simpa using h6.1.1, h6.1.2, fun e he => (h6.2 e he).2, h7, fun p => by cases p; exacts [h8.1, h8.2]⟩

/-- WF9: every FIFO constant that a key finds is below 2^16. -/
theorem genOk_fifoConst (h : genOk c t = true) {k : FifoKey} {f : FifoConsts} (hf : t.fifoAt k = some f)
    (j : FifoParam) : f.get j < 65536 := by
  simp only [genOk, Bool.and_eq_true, wf9, List.all_eq_true, decide_eq_true_eq, PerFifo.toList, List.mem_map] at h
  simp only [GenTables.fifoAt, Option.map_eq_some_iff] at hf
  obtain ⟨r, hr, rfl⟩ := hf
  exact h.1.2 r (List.mem_of_find?_eq_some hr) _ ⟨j, by cases j <;> decide, rfl⟩

/-- A factor of 16-bit sizes is below 2^32, so the mirror holds it exactly (R245). -/
theorem axisFactor_lt (sel : ScaleSel) {n a : Nat} (b : Nat) (hn : n ≤ 4096) (ha : a < 65536) :
    axisFactor sel n a b < 2 ^ 32 := by
  cases sel
  · simp only [axisFactor, expandFactor]
    have h1 : (a - 1) * n ≤ 65535 * 4096 := Nat.mul_le_mul (by omega) hn
    have h2 := Nat.div_le_self ((a - 1) * n) (b - 1)
    omega
  · simp only [axisFactor, shrinkFactor]
    split
    · have h1 : (a - b) * n ≤ 65535 * 4096 := Nat.mul_le_mul (by omega) hn
      have h2 := Nat.div_le_self ((a - b) * n) b
      omega
    · omega

end Sys2Proof.Machine
end

