-- ==== Sys2Proof/Laws/State.lean ====
section
/-! SUPPORT. What each named update of the state does to each field, so that no later proof unfolds an update. -/

namespace Sys2Proof.Machine

variable (s : State)

@[simp] theorem State.onBus_cfg (f : Bus → Bus) : (s.onBus f).cfg = s.cfg := rfl
@[simp] theorem State.onBus_hr (f : Bus → Bus) : (s.onBus f).hr = s.hr := rfl
@[simp] theorem State.onBus_phase (f : Bus → Bus) : (s.onBus f).phase = s.phase := rfl
@[simp] theorem State.onBus_latch (f : Bus → Bus) : (s.onBus f).latch = s.latch := rfl
@[simp] theorem State.onBus_gen (f : Bus → Bus) : (s.onBus f).gen = s.gen := rfl
@[simp] theorem State.onBus_scale (f : Bus → Bus) : (s.onBus f).scale = s.scale := rfl
@[simp] theorem State.onBus_path (f : Bus → Bus) : (s.onBus f).path = s.path := rfl
@[simp] theorem State.onBus_bus (f : Bus → Bus) : (s.onBus f).bus = f s.bus := rfl
@[simp] theorem State.onBus_inputs (f : Bus → Bus) : (s.onBus f).inputs = s.inputs := rfl
@[simp] theorem State.onBus_replies (f : Bus → Bus) : (s.onBus f).replies = s.replies := rfl
@[simp] theorem State.onBus_history (f : Bus → Bus) : (s.onBus f).history = s.history := rfl

@[simp] theorem State.bindGen_cfg (p : Pipe) (g : Nat) : (s.bindGen p g).cfg = s.cfg := rfl
@[simp] theorem State.bindGen_hr (p : Pipe) (g : Nat) : (s.bindGen p g).hr = s.hr := rfl
@[simp] theorem State.bindGen_phase (p : Pipe) (g : Nat) : (s.bindGen p g).phase = s.phase := rfl
@[simp] theorem State.bindGen_latch (p : Pipe) (g : Nat) : (s.bindGen p g).latch = s.latch := rfl
@[simp] theorem State.bindGen_gen (p : Pipe) (g : Nat) : (s.bindGen p g).gen = s.gen.set p (some g) := rfl
@[simp] theorem State.bindGen_scale (p : Pipe) (g : Nat) : (s.bindGen p g).scale = s.scale := rfl
@[simp] theorem State.bindGen_path (p : Pipe) (g : Nat) : (s.bindGen p g).path = s.path := rfl
@[simp] theorem State.bindGen_bus (p : Pipe) (g : Nat) : (s.bindGen p g).bus = s.bus := rfl
@[simp] theorem State.bindGen_inputs (p : Pipe) (g : Nat) : (s.bindGen p g).inputs = s.inputs := rfl
@[simp] theorem State.bindGen_replies (p : Pipe) (g : Nat) : (s.bindGen p g).replies = s.replies := rfl
@[simp] theorem State.bindGen_history (p : Pipe) (g : Nat) : (s.bindGen p g).history = s.history := rfl

@[simp] theorem State.setPll_cfg (r : PllResult) : (s.setPll r).cfg = s.cfg := rfl
@[simp] theorem State.setPll_hr (r : PllResult) : (s.setPll r).hr = { s.hr with pll := r } := rfl
@[simp] theorem State.setPll_phase (r : PllResult) : (s.setPll r).phase = s.phase := rfl
@[simp] theorem State.setPll_latch (r : PllResult) : (s.setPll r).latch = s.latch := rfl
@[simp] theorem State.setPll_gen (r : PllResult) : (s.setPll r).gen = s.gen := rfl
@[simp] theorem State.setPll_scale (r : PllResult) : (s.setPll r).scale = s.scale := rfl
@[simp] theorem State.setPll_path (r : PllResult) : (s.setPll r).path = s.path := rfl
@[simp] theorem State.setPll_bus (r : PllResult) : (s.setPll r).bus = s.bus := rfl
@[simp] theorem State.setPll_inputs (r : PllResult) : (s.setPll r).inputs = s.inputs := rfl
@[simp] theorem State.setPll_replies (r : PllResult) : (s.setPll r).replies = s.replies := rfl
@[simp] theorem State.setPll_history (r : PllResult) : (s.setPll r).history = s.history := rfl

@[simp] theorem State.setFifo_cfg (r : PerFifo (BitVec 16)) : (s.setFifo r).cfg = s.cfg := rfl
@[simp] theorem State.setFifo_hr (r : PerFifo (BitVec 16)) : (s.setFifo r).hr = { s.hr with fifo := r } := rfl
@[simp] theorem State.setFifo_phase (r : PerFifo (BitVec 16)) : (s.setFifo r).phase = s.phase := rfl
@[simp] theorem State.setFifo_latch (r : PerFifo (BitVec 16)) : (s.setFifo r).latch = s.latch := rfl
@[simp] theorem State.setFifo_gen (r : PerFifo (BitVec 16)) : (s.setFifo r).gen = s.gen := rfl
@[simp] theorem State.setFifo_scale (r : PerFifo (BitVec 16)) : (s.setFifo r).scale = s.scale := rfl
@[simp] theorem State.setFifo_path (r : PerFifo (BitVec 16)) : (s.setFifo r).path = s.path := rfl
@[simp] theorem State.setFifo_bus (r : PerFifo (BitVec 16)) : (s.setFifo r).bus = s.bus := rfl
@[simp] theorem State.setFifo_inputs (r : PerFifo (BitVec 16)) : (s.setFifo r).inputs = s.inputs := rfl
@[simp] theorem State.setFifo_replies (r : PerFifo (BitVec 16)) : (s.setFifo r).replies = s.replies := rfl
@[simp] theorem State.setFifo_history (r : PerFifo (BitVec 16)) : (s.setFifo r).history = s.history := rfl

@[simp] theorem State.setScale_cfg (sc : ScalingState) : (s.setScale sc).cfg = s.cfg := rfl
@[simp] theorem State.setScale_hr (sc : ScalingState) : (s.setScale sc).hr = s.hr := rfl
@[simp] theorem State.setScale_phase (sc : ScalingState) : (s.setScale sc).phase = s.phase := rfl
@[simp] theorem State.setScale_latch (sc : ScalingState) : (s.setScale sc).latch = s.latch := rfl
@[simp] theorem State.setScale_gen (sc : ScalingState) : (s.setScale sc).gen = s.gen := rfl
@[simp] theorem State.setScale_scale (sc : ScalingState) : (s.setScale sc).scale = sc := rfl
@[simp] theorem State.setScale_path (sc : ScalingState) : (s.setScale sc).path = s.path := rfl
@[simp] theorem State.setScale_bus (sc : ScalingState) : (s.setScale sc).bus = s.bus := rfl
@[simp] theorem State.setScale_inputs (sc : ScalingState) : (s.setScale sc).inputs = s.inputs := rfl
@[simp] theorem State.setScale_replies (sc : ScalingState) : (s.setScale sc).replies = s.replies := rfl
@[simp] theorem State.setScale_history (sc : ScalingState) : (s.setScale sc).history = s.history := rfl

@[simp] theorem State.setMirror_cfg (m : PathMirror) : (s.setMirror m).cfg = s.cfg := rfl
@[simp] theorem State.setMirror_hr (m : PathMirror) : (s.setMirror m).hr = s.hr := rfl
@[simp] theorem State.setMirror_phase (m : PathMirror) : (s.setMirror m).phase = s.phase := rfl
@[simp] theorem State.setMirror_latch (m : PathMirror) : (s.setMirror m).latch = s.latch := rfl
@[simp] theorem State.setMirror_gen (m : PathMirror) : (s.setMirror m).gen = s.gen := rfl
@[simp] theorem State.setMirror_scale (m : PathMirror) : (s.setMirror m).scale = s.scale := rfl
@[simp] theorem State.setMirror_path (m : PathMirror) : (s.setMirror m).path = m := rfl
@[simp] theorem State.setMirror_bus (m : PathMirror) : (s.setMirror m).bus = s.bus := rfl
@[simp] theorem State.setMirror_inputs (m : PathMirror) : (s.setMirror m).inputs = s.inputs := rfl
@[simp] theorem State.setMirror_replies (m : PathMirror) : (s.setMirror m).replies = s.replies := rfl
@[simp] theorem State.setMirror_history (m : PathMirror) : (s.setMirror m).history = s.history := rfl

@[simp] theorem State.retire_cfg (c : Option Instr) (v : Verdict) : (s.retire c v).cfg = s.cfg := rfl
@[simp] theorem State.retire_hr (c : Option Instr) (v : Verdict) : (s.retire c v).hr = { s.hr with err := v, done := true } := rfl
@[simp] theorem State.retire_phase (c : Option Instr) (v : Verdict) : (s.retire c v).phase = .idle := rfl
@[simp] theorem State.retire_latch (c : Option Instr) (v : Verdict) : (s.retire c v).latch = s.latch := rfl
@[simp] theorem State.retire_gen (c : Option Instr) (v : Verdict) : (s.retire c v).gen = s.gen := rfl
@[simp] theorem State.retire_scale (c : Option Instr) (v : Verdict) : (s.retire c v).scale = s.scale := rfl
@[simp] theorem State.retire_path (c : Option Instr) (v : Verdict) : (s.retire c v).path = s.path := rfl
@[simp] theorem State.retire_bus (c : Option Instr) (v : Verdict) : (s.retire c v).bus = s.bus := rfl
@[simp] theorem State.retire_inputs (c : Option Instr) (v : Verdict) : (s.retire c v).inputs = s.inputs := rfl
@[simp] theorem State.retire_replies (c : Option Instr) (v : Verdict) : (s.retire c v).replies = s.replies := rfl
@[simp] theorem State.retire_history (c : Option Instr) (v : Verdict) : (s.retire c v).history = s.history ++ [⟨c, v⟩] := rfl

@[simp] theorem State.accept_cfg (w : Word) : (s.accept w).cfg = s.cfg := rfl
@[simp] theorem State.accept_hr (w : Word) : (s.accept w).hr = { s.hr with cmd := w, done := false } := rfl
@[simp] theorem State.accept_phase (w : Word) : (s.accept w).phase = .busy := rfl
@[simp] theorem State.accept_latch (w : Word) : (s.accept w).latch = some ⟨w, s.hr.args⟩ := rfl
@[simp] theorem State.accept_gen (w : Word) : (s.accept w).gen = s.gen := rfl
@[simp] theorem State.accept_scale (w : Word) : (s.accept w).scale = s.scale := rfl
@[simp] theorem State.accept_path (w : Word) : (s.accept w).path = s.path := rfl
@[simp] theorem State.accept_bus (w : Word) : (s.accept w).bus = s.bus := rfl
@[simp] theorem State.accept_inputs (w : Word) : (s.accept w).inputs = s.inputs := rfl
@[simp] theorem State.accept_replies (w : Word) : (s.accept w).replies = s.replies := rfl
@[simp] theorem State.accept_history (w : Word) : (s.accept w).history = s.history := rfl

/-! ## The pipes -/

@[simp] theorem get_set_same {α : Type} (v : PerPipe α) (p : Pipe) (a : α) : (v.set p a).get p = a := by
  cases p <;> rfl

@[simp] theorem get_set_other {α : Type} (v : PerPipe α) (p : Pipe) (a : α) :
    (v.set p a).get p.other = v.get p.other := by
  cases p <;> rfl

theorem get_set {α : Type} (v : PerPipe α) (p q : Pipe) (a : α) :
    (v.set p a).get q = if q = p then a else v.get q := by
  cases p <;> cases q <;> rfl

@[simp] theorem other_other (p : Pipe) : p.other.other = p := by cases p <;> rfl

/-! ## The twelve parameters -/

@[simp] theorem crtc_get_ofFn {α : Type} (f : CrtcParam → α) (k : CrtcParam) : (Crtc.ofFn f).get k = f k := by
  cases k <;> rfl

theorem crtc_get_set {α : Type} (t : Crtc α) (k j : CrtcParam) (a : α) :
    (t.set k a).get j = if j = k then a else t.get j := by
  simp [Crtc.set]

theorem mem_crtcParam_all (k : CrtcParam) : k ∈ CrtcParam.all := by cases k <;> decide

theorem mem_fifoParam_all (j : FifoParam) : j ∈ FifoParam.all := by cases j <;> decide

end Sys2Proof.Machine
end

