-- ==== Sys2Proof/Laws/Command.lean ====
section
/-! SUPPORT. What the shared command machinery can answer: completion, the NotInitialized check, and the running of a
command on its latch. -/

namespace Sys2Proof.Machine

/-- A completion answers a next state only as R304 says: the rule's updates with ERR 0, or nothing but STATUS. -/
theorem complete_next {c : Option Instr} {s t : State} {r : Run} (h : complete c s r = .next t) :
    (∃ u, r = .ok u ∧ t = u.retire c .ok) ∨ (∃ e, r = .error (.raise e) ∧ t = s.retire c (.error e)) := by
  match r, h with
  | .ok u, h => exact .inl ⟨u, rfl, by injection h with h; exact h.symm⟩
  | .error (.raise e), h => exact .inr ⟨e, rfl, by injection h with h; exact h.symm⟩
  | .error (.fault f), h => cases h

/-- A command answers a next state only from a full latch, by its rule's outcome (R304). -/
theorem runCommand_next {i : Instr} {s t : State} {rule : ArgRegs → Run} (h : runCommand i s rule = .next t) :
    ∃ l, s.latch = some l ∧ ((∃ u, rule l.args = .ok u ∧ t = u.retire (some i) .ok) ∨
      (∃ e, rule l.args = .error (.raise e) ∧ t = s.retire (some i) (.error e))) := by
  unfold runCommand at h
  split at h
  · cases h
  · exact ⟨_, ‹_›, complete_next h⟩

/-- A rule under the NotInitialized check succeeds only with the tables of the bound generation (R161). -/
theorem withTables_ok {s u : State} {p : Pipe} {rule : GenTables → Run} (h : withTables s p rule = .ok u) :
    ∃ g t, s.gen.get p = some g ∧ s.cfg.gens[g]? = some t ∧ rule t = .ok u := by
  unfold withTables at h
  split at h
  · cases h
  · rename_i g hg
    unfold State.tablesAt at h
    split at h
    · rename_i t ht
      split at ht
      · rename_i t' ht'
        injection ht with ht
        exact ⟨g, t, hg, ht ▸ ht', h⟩
      · cases ht
    · cases h

/-- The tables of a bound generation reach the rule (R161). -/
theorem withTables_bound {s : State} {p : Pipe} {g : Nat} {t : GenTables} {rule : GenTables → Run}
    (hg : s.gen.get p = some g) (ht : s.cfg.gens[g]? = some t) : withTables s p rule = rule t := by
  simp [withTables, State.tablesAt, hg, ht]

/-- An unbound pipe raises NotInitialized (R161). -/
theorem withTables_unbound {s : State} {p : Pipe} {rule : GenTables → Run} (hg : s.gen.get p = none) :
    withTables s p rule = raise .notInitialized := by
  simp [withTables, hg]

/-- A command whose rule succeeds completes with ERR 0 (R304). -/
theorem runCommand_ok {i : Instr} {s u : State} {rule : ArgRegs → Run} {l : Latch} (hl : s.latch = some l)
    (h : rule l.args = .ok u) : runCommand i s rule = .next (u.retire (some i) .ok) := by
  simp [runCommand, hl, h, complete]

/-- A command whose rule raises an error completes with it, and with nothing else (R303, R304). -/
theorem runCommand_raise {i : Instr} {s : State} {rule : ArgRegs → Run} {l : Latch} {e : CmdError}
    (hl : s.latch = some l) (h : rule l.args = raise e) :
    runCommand i s rule = .next (s.retire (some i) (.error e)) := by
  simp [runCommand, hl, h, raise, complete]

end Sys2Proof.Machine
end

