-- ==== Sys2Proof/Laws/Duties.lean ====
section
/-! SUPPORT. The Host's duties before a pipe is enabled (70_reset R345), after one more completion. -/

namespace Sys2Proof.Machine

variable (s : State)

@[simp] theorem State.completed_retire (c : Option Instr) (v : Verdict) :
    (s.retire c v).completed = ⟨c, v⟩ :: s.completed := by
  simp [State.completed, State.retire]

/-- The completions after the last one that satisfies a test, with one more completion. -/
theorem afterLast_cons (f : Completion → Bool) (c : Completion) (cs : List Completion) :
    afterLast f (c :: cs) = if f c then [] else c :: afterLast f cs := by
  cases h : f c <;> simp [afterLast, h]

/-- Whether any completion satisfies a test does not depend on their order. -/
theorem State.completed_any (f : Completion → Bool) : s.completed.any f = s.history.any f := by
  simp [State.completed]

@[simp] theorem Completion.is_some (f : Instr → Bool) (i : Instr) (v : Verdict) :
    Completion.is f ⟨some i, v⟩ = f i := rfl

@[simp] theorem Completion.isOk_some (f : Instr → Bool) (i : Instr) (v : Verdict) :
    Completion.isOk f ⟨some i, v⟩ = (f i && decide (v = .ok)) := rfl

@[simp] theorem Completion.unsupportedOn_some (c : Cfg) (p : Pipe) (i : Instr) (v : Verdict) :
    Completion.unsupportedOn c p ⟨some i, v⟩ = (onPipe c p i && decide (v = .error .unsupportedDevice)) := rfl

@[simp] theorem State.settled_retire (c : Option Instr) (v : Verdict) : (s.retire c v).settled = true := rfl

@[simp] theorem State.settled_accept (w : Word) : (s.accept w).settled = false := rfl

@[simp] theorem State.timingDuty_accept (w : Word) (p : Pipe) : (s.accept w).timingDuty p = s.timingDuty p := rfl

@[simp] theorem State.pathDuty_accept (w : Word) (p : Pipe) : (s.accept w).pathDuty p = s.pathDuty p := rfl

@[simp] theorem State.supportDuty_accept (w : Word) (p : Pipe) : (s.accept w).supportDuty p = s.supportDuty p := rfl

@[simp] theorem State.pllDuty_accept (w : Word) (p : Pipe) : (s.accept w).pllDuty p = s.pllDuty p := rfl

/-- What `ReadyToEnable(p)` asks, clause by clause (R345, R343). -/
theorem State.readyToEnable_iff (p : Pipe) :
    s.readyToEnable p = true ↔ s.settled = true ∧ s.timingDuty p = true ∧ s.pathDuty p = true ∧
      s.supportDuty p = true ∧ s.pllDuty p = true := by
  simp [State.readyToEnable, and_assoc]

end Sys2Proof.Machine
end

