-- ==== Sys2Proof/Laws/Meanings.lean ====
section
/-! SUPPORT. What each command can answer, said once: an error with nothing but the STATUS update, or the one effect its
rule gives it. -/

namespace Sys2Proof.Machine

/-- A completion with an error and nothing else (R303). -/
def ErrorOnly (i : Instr) (s t : State) : Prop := ∃ e, t = s.retire (some i) (.error e)

variable {s t : State} {p : Pipe}

/-- INIT binds a free pipe to the resolved generation, which the other pipe shares (R160). -/
theorem execInit_next (h : execInit p s = .next t) : ∃ l, s.latch = some l ∧ (ErrorOnly (.init p) s t ∨
    ∃ g, s.gen.get p = none ∧ s.cfg.resolveChip l.args.chipId = some g ∧
      (∀ g', s.gen.get p.other = some g' → g' = g) ∧ t = (s.bindGen p g).retire (some (.init p)) .ok) := by
  obtain ⟨l, hl, ⟨u, hu, rfl⟩ | ⟨e, -, rfl⟩⟩ := runCommand_next h
  · refine ⟨l, hl, .inr ?_⟩
    split at hu
    · cases hu
    · rename_i hp
      split at hu
      · cases hu
      · rename_i g hg
        split at hu
        · rename_i g' ho
          split at hu
          · rename_i hgg
            injection hu with hu
            subst hu
            refine ⟨g, hp, hg, fun x hx => ?_, rfl⟩
            rw [ho] at hx
            injection hx with hx
            exact hx ▸ hgg
          · cases hu
        · rename_i ho
          injection hu with hu
          subst hu
          refine ⟨g, hp, hg, fun x hx => ?_, rfl⟩
          rw [ho] at hx
          cases hx
  · exact ⟨l, hl, .inl ⟨e, rfl⟩⟩

/-- WRLIT writes one literal table (R140). -/
theorem execWrlit_next {imm : BitVec 8} (h : execWrlit p imm s = .next t) : ∃ l, s.latch = some l ∧
    (ErrorOnly (.wrlit p imm) s t ∨ ∃ g tab lit, s.gen.get p = some g ∧ s.cfg.gens[g]? = some tab ∧
      tab.lit[imm.toNat]? = some lit ∧ t = (s.onBus (writeLiteral lit)).retire (some (.wrlit p imm)) .ok) := by
  obtain ⟨l, hl, ⟨u, hu, rfl⟩ | ⟨e, -, rfl⟩⟩ := runCommand_next h
  · obtain ⟨g, tab, hg, ht, hu⟩ := withTables_ok hu
    split at hu
    · cases hu
    · injection hu with hu
      subst hu
      exact ⟨l, hl, .inr ⟨g, tab, _, hg, ht, ‹_›, rfl⟩⟩
  · exact ⟨l, hl, .inl ⟨e, rfl⟩⟩

/-- WRVAL writes VALUE through one list (R139). -/
theorem execWrval_next {imm : BitVec 8} (h : execWrval p imm s = .next t) : ∃ l, s.latch = some l ∧
    (ErrorOnly (.wrval p imm) s t ∨ ∃ sel g tab, ListSel.ofImm imm = some sel ∧ s.gen.get p = some g ∧
      s.cfg.gens[g]? = some tab ∧
      t = (s.onBus (writeValue (listOf tab p sel) l.args.value.toNat)).retire (some (.wrval p imm)) .ok) := by
  obtain ⟨l, hl, ⟨u, hu, rfl⟩ | ⟨e, -, rfl⟩⟩ := runCommand_next h
  · split at hu
    · cases hu
    · obtain ⟨g, tab, hg, ht, hu⟩ := withTables_ok hu
      injection hu with hu
      subst hu
      exact ⟨l, hl, .inr ⟨_, g, tab, ‹_›, hg, ht, rfl⟩⟩
  · exact ⟨l, hl, .inl ⟨e, rfl⟩⟩

/-- PROGTIM loads one timing (R171). -/
theorem execProgtim_next {sel : TimingSel} (h : execProgtim p sel s = .next t) : ∃ l, s.latch = some l ∧
    (ErrorOnly (.progtim p sel) s t ∨ ∃ g tab, s.gen.get p = some g ∧ s.cfg.gens[g]? = some tab ∧
      ¬ (sel = .synth ∧ p ≠ s.cfg.scalerPipe) ∧ ¬ (p = s.cfg.scalerPipe ∧ pathForbids sel s.path = true) ∧
      t = (s.onBus (programTiming tab p (progtimTiming s.cfg l.args sel))).retire (some (.progtim p sel)) .ok) := by
  obtain ⟨l, hl, ⟨u, hu, rfl⟩ | ⟨e, -, rfl⟩⟩ := runCommand_next h
  · split at hu
    · cases hu
    · obtain ⟨g, tab, hg, ht, hu⟩ := withTables_ok hu
      split at hu
      · cases hu
      · injection hu with hu
        subst hu
        exact ⟨l, hl, .inr ⟨g, tab, hg, ht, ‹_›, ‹_›, rfl⟩⟩
  · exact ⟨l, hl, .inl ⟨e, rfl⟩⟩

/-- SYNPLL programs the searched entry and reports it (R197). -/
theorem execSynpll_next (h : execSynpll p s = .next t) : ∃ l, s.latch = some l ∧
    (ErrorOnly (.synpll p) s t ∨ ∃ g tab c e, s.gen.get p = some g ∧ s.cfg.gens[g]? = some tab ∧
      tab.pll = some c ∧ c.table[pllSearch (targetHz l.args) c.table]? = some e ∧
      t = ((s.onBus (programPll s.cfg.tPllWait p (pllCode c.enc e) c)).setPll
        (pllResult (pllSearch (targetHz l.args) c.table) c.enc e)).retire (some (.synpll p)) .ok) := by
  obtain ⟨l, hl, ⟨u, hu, rfl⟩ | ⟨e, -, rfl⟩⟩ := runCommand_next h
  · obtain ⟨g, tab, hg, ht, hu⟩ := withTables_ok hu
    split at hu
    · cases hu
    · dsimp only at hu
      split at hu
      · cases hu
      · injection hu with hu
        subst hu
        exact ⟨l, hl, .inr ⟨g, tab, _, _, hg, ht, ‹_›, ‹_›, rfl⟩⟩
  · exact ⟨l, hl, .inl ⟨e, rfl⟩⟩

/-- TUNEFIFO writes and reports the constants of its key (R223). -/
theorem execTunefifo_next (h : execTunefifo p s = .next t) : ∃ l, s.latch = some l ∧
    (ErrorOnly (.tunefifo p) s t ∨ ∃ g tab f, s.gen.get p = some g ∧ s.cfg.gens[g]? = some tab ∧
      tab.fifoAt (fifoKey s.cfg.tierInclusive p l.args) = some f ∧
      t = ((s.onBus (programFifo (tab.fifoList.get p) f)).setFifo (fifoResult f)).retire
        (some (.tunefifo p)) .ok) := by
  obtain ⟨l, hl, ⟨u, hu, rfl⟩ | ⟨e, -, rfl⟩⟩ := runCommand_next h
  · obtain ⟨g, tab, hg, ht, hu⟩ := withTables_ok hu
    split at hu
    · cases hu
    · injection hu with hu
      subst hu
      exact ⟨l, hl, .inr ⟨g, tab, _, hg, ht, ‹_›, rfl⟩⟩
  · exact ⟨l, hl, .inl ⟨e, rfl⟩⟩

/-- COMPSCALE writes the scaler registers and the mirror (R246). -/
theorem execCompscale_next {sel : ScaleSel} (h : execCompscale sel s = .next t) : ∃ l, s.latch = some l ∧
    (ErrorOnly (.compscale sel) s t ∨ ∃ g tab, s.gen.get s.cfg.scalerPipe = some g ∧
      s.cfg.gens[g]? = some tab ∧ badGeometry sel (srcSize l.args) (dstSize l.args) = false ∧
      t = ((s.onBus (writeScale tab.scaler sel (scalingOf sel (srcSize l.args) (dstSize l.args)))).setScale
        (scalingOf sel (srcSize l.args) (dstSize l.args))).retire (some (.compscale sel)) .ok) := by
  obtain ⟨l, hl, ⟨u, hu, rfl⟩ | ⟨e, -, rfl⟩⟩ := runCommand_next h
  · obtain ⟨g, tab, hg, ht, hu⟩ := withTables_ok hu
    split at hu
    · cases hu
    · rename_i hgeo
      injection hu with hu
      subst hu
      exact ⟨l, hl, .inr ⟨g, tab, hg, ht, by simpa using hgeo, rfl⟩⟩
  · exact ⟨l, hl, .inl ⟨e, rfl⟩⟩

/-- SETPATH writes the path-select field and the mirror (R250). -/
theorem execSetpath_next {v : PathSel} (h : execSetpath v s = .next t) : ∃ l, s.latch = some l ∧
    (ErrorOnly (.setpath v) s t ∨ ∃ g tab, s.gen.get s.cfg.scalerPipe = some g ∧ s.cfg.gens[g]? = some tab ∧
      t = (setPath tab.scaler v s).retire (some (.setpath v)) .ok) := by
  obtain ⟨l, hl, ⟨u, hu, rfl⟩ | ⟨e, -, rfl⟩⟩ := runCommand_next h
  · obtain ⟨g, tab, hg, ht, hu⟩ := withTables_ok hu
    injection hu with hu
    subst hu
    exact ⟨l, hl, .inr ⟨g, tab, hg, ht, rfl⟩⟩
  · exact ⟨l, hl, .inl ⟨e, rfl⟩⟩

/-- PROGSCALE writes the scale and then the timings, of a downscale or of the destination alone (R260). -/
theorem execProgscale_next {sel : ScaleSel} (h : execProgscale sel s = .next t) : ∃ l, s.latch = some l ∧
    (ErrorOnly (.progscale sel) s t ∨ ∃ g tab sc s1, s.gen.get s.cfg.scalerPipe = some g ∧
      s.cfg.gens[g]? = some tab ∧ badGeometry sel (srcSize l.args) (dstSize l.args) = false ∧
      sc = scalingOf sel (srcSize l.args) (dstSize l.args) ∧ s1 = s.onBus (writeScale tab.scaler sel sc) ∧
      ((isDownscale sc = true ∧
          t = ((loadDownscale tab l.args s1).setScale sc).retire (some (.progscale sel)) .ok) ∨
        (isDownscale sc = false ∧ s.path ≠ .src ∧
          t = ((s1.onBus (programTiming tab s.cfg.scalerPipe (progtimTiming s.cfg l.args .mode))).setScale
            sc).retire (some (.progscale sel)) .ok))) := by
  obtain ⟨l, hl, ⟨u, hu, rfl⟩ | ⟨e, -, rfl⟩⟩ := runCommand_next h
  · obtain ⟨g, tab, hg, ht, hu⟩ := withTables_ok hu
    split at hu
    · cases hu
    · rename_i hgeo
      dsimp only at hu
      split at hu
      · cases hu
      · rename_i hpath
        injection hu with hu
        refine ⟨l, hl, .inr ⟨g, tab, _, _, hg, ht, by simpa using hgeo, rfl, rfl, ?_⟩⟩
        cases hd : isDownscale (scalingOf sel (srcSize l.args) (dstSize l.args)) with
        | true => exact .inl ⟨rfl, by rw [← hu, hd]; rfl⟩
        | false => exact .inr ⟨rfl, fun hp => hpath ⟨hd, hp⟩, by rw [← hu, hd]; rfl⟩
  · exact ⟨l, hl, .inl ⟨e, rfl⟩⟩

end Sys2Proof.Machine
end

