-- ==== Sys2Proof/Laws/Exec.lean ====
section
/-! SUPPORT. What any command can answer, said once over all nine: an error with nothing but the STATUS update, or a
completion whose events are the Engine's bus primitives and whose mirrors moved as 10_state R45 to R49 say. -/

namespace Sys2Proof.Machine

/-! ## The timing loads of a downscale -/

section LoadDownscale

variable (t : GenTables) (x : ArgRegs) (s : State)

@[simp] theorem loadDownscale_cfg : (loadDownscale t x s).cfg = s.cfg := rfl
@[simp] theorem loadDownscale_hr : (loadDownscale t x s).hr = s.hr := rfl
@[simp] theorem loadDownscale_latch : (loadDownscale t x s).latch = s.latch := rfl
@[simp] theorem loadDownscale_gen : (loadDownscale t x s).gen = s.gen := rfl
@[simp] theorem loadDownscale_scale : (loadDownscale t x s).scale = s.scale := rfl
@[simp] theorem loadDownscale_path : (loadDownscale t x s).path = .dst := rfl
@[simp] theorem loadDownscale_inputs : (loadDownscale t x s).inputs = s.inputs := rfl
@[simp] theorem loadDownscale_replies : (loadDownscale t x s).replies = s.replies := rfl
@[simp] theorem loadDownscale_history : (loadDownscale t x s).history = s.history := rfl

@[simp] theorem loadDownscale_bus : (loadDownscale t x s).bus = downscaleLoads s.cfg t x s.bus := rfl

theorem BusClosed.downscaleLoads {R : Bus → Bus → Prop} (h : BusClosed R) (c : Cfg) (bus : Bus) :
    R bus (downscaleLoads c t x bus) :=
  h.trans _ _ _ (h.writePath _ _ _) <| h.trans _ _ _ (h.programTiming _ _ _ _) <|
    h.trans _ _ _ (h.writePath _ _ _) <| h.trans _ _ _ (h.programTiming _ _ _ _) (h.writePath _ _ _)

end LoadDownscale

/-! ## Every command -/

/-- What a rule that succeeds leaves alone (R45 to R49): everything that no command writes. -/
def RuleKeeps (s u : State) : Prop :=
  u.cfg = s.cfg ∧ u.hr.cmd = s.hr.cmd ∧ u.hr.ovr = s.hr.ovr ∧ u.hr.args = s.hr.args ∧ u.latch = s.latch ∧
  u.inputs = s.inputs ∧ u.replies = s.replies ∧ u.history = s.history

/-- What a rule can do to `gen` (R47): nothing, or what INIT does. -/
def RuleGen (i : Instr) (x : ArgRegs) (s u : State) : Prop :=
  u.gen = s.gen ∨ ∃ p g, i = .init p ∧ s.gen.get p = none ∧ s.cfg.resolveChip x.chipId = some g ∧
    (∀ g', s.gen.get p.other = some g' → g' = g) ∧ u.gen = s.gen.set p (some g)

/-- What a rule can do to `scale` (R48): nothing, or the latched geometry's scaling. -/
def RuleScale (x : ArgRegs) (s u : State) : Prop :=
  u.scale = s.scale ∨ ∃ sel, u.scale = scalingOf sel (srcSize x) (dstSize x)

/-- What a rule can do to `path` (R49, R251): nothing, what SETPATH does, or the end of a downscale. -/
def RulePath (i : Instr) (x : ArgRegs) (s u : State) : Prop :=
  u.path = s.path ∨ (∃ v, i = .setpath v ∧ u.path = mirrorOf v) ∨
  (i = .progscale .shrink ∧ isDownscale (scalingOf .shrink (srcSize x) (dstSize x)) = true ∧ u.path = .dst)

/-- What a command rule that succeeds does, whichever command it is. -/
def RuleDoes (i : Instr) (x : ArgRegs) (s u : State) : Prop :=
  RuleKeeps s u ∧ (∀ R : Bus → Bus → Prop, BusClosed R → R s.bus u.bus) ∧ RuleGen i x s u ∧ RuleScale x s u ∧
    RulePath i x s u

theorem ruleKeeps_refl (s : State) : RuleKeeps s s := ⟨rfl, rfl, rfl, rfl, rfl, rfl, rfl, rfl⟩

/-- A rule that only writes the device. -/
theorem ruleDoes_onBus {i : Instr} {x : ArgRegs} {s : State} {f : Bus → Bus}
    (h : ∀ R : Bus → Bus → Prop, BusClosed R → R s.bus (f s.bus)) : RuleDoes i x s (s.onBus f) :=
  ⟨ruleKeeps_refl s, h, .inl rfl, .inl rfl, .inl rfl⟩

/-- Only a shrink is a downscale (R247, R260). -/
theorem isDownscale_shrink {sel : ScaleSel} {a b : Size} (h : isDownscale (scalingOf sel a b) = true) :
    sel = .shrink := by
  cases sel with
  | expand => simp [isDownscale, scalingOf] at h
  | shrink => rfl

/-- A command answers a next state only from a full latch: an error alone (R303), or its rule's effect (R304). -/
theorem exec_next {i : Instr} {s t : State} (h : exec i s = .next t) : ∃ l, s.latch = some l ∧
    (ErrorOnly i s t ∨ ∃ u, t = u.retire (some i) .ok ∧ RuleDoes i l.args s u) := by
  cases i with
  | init p =>
    obtain ⟨l, hl, h | ⟨g, a, b, c, rfl⟩⟩ := execInit_next h
    · exact ⟨l, hl, .inl h⟩
    · exact ⟨l, hl, .inr ⟨_, rfl, ruleKeeps_refl s, fun R hR => hR.refl _, .inr ⟨p, g, rfl, a, b, c, rfl⟩, .inl rfl,
        .inl rfl⟩⟩
  | wrlit p imm =>
    obtain ⟨l, hl, h | ⟨g, tab, lit, a, b, c, rfl⟩⟩ := execWrlit_next h
    · exact ⟨l, hl, .inl h⟩
    · exact ⟨l, hl, .inr ⟨_, rfl, ruleDoes_onBus fun R hR => hR.writeLiteral _ _⟩⟩
  | wrval p imm =>
    obtain ⟨l, hl, h | ⟨sel, g, tab, a, b, c, rfl⟩⟩ := execWrval_next h
    · exact ⟨l, hl, .inl h⟩
    · exact ⟨l, hl, .inr ⟨_, rfl, ruleDoes_onBus fun R hR => hR.writeValue _ _ _⟩⟩
  | progtim p sel =>
    obtain ⟨l, hl, h | ⟨g, tab, a, b, c, d, rfl⟩⟩ := execProgtim_next h
    · exact ⟨l, hl, .inl h⟩
    · exact ⟨l, hl, .inr ⟨_, rfl, ruleDoes_onBus fun R hR => hR.programTiming _ _ _ _⟩⟩
  | synpll p =>
    obtain ⟨l, hl, h | ⟨g, tab, c, e, a, b, d, f, rfl⟩⟩ := execSynpll_next h
    · exact ⟨l, hl, .inl h⟩
    · exact ⟨l, hl, .inr ⟨_, rfl, ruleKeeps_refl s, fun R hR => hR.programPll _ _ _ _ _, .inl rfl, .inl rfl,
        .inl rfl⟩⟩
  | tunefifo p =>
    obtain ⟨l, hl, h | ⟨g, tab, f, a, b, d, rfl⟩⟩ := execTunefifo_next h
    · exact ⟨l, hl, .inl h⟩
    · exact ⟨l, hl, .inr ⟨_, rfl, ruleKeeps_refl s, fun R hR => hR.programFifo _ _ _, .inl rfl, .inl rfl, .inl rfl⟩⟩
  | compscale sel =>
    obtain ⟨l, hl, h | ⟨g, tab, a, b, c, rfl⟩⟩ := execCompscale_next h
    · exact ⟨l, hl, .inl h⟩
    · exact ⟨l, hl, .inr ⟨_, rfl, ruleKeeps_refl s, fun R hR => hR.writeScale _ _ _ _, .inl rfl, .inr ⟨_, rfl⟩,
        .inl rfl⟩⟩
  | setpath v =>
    obtain ⟨l, hl, h | ⟨g, tab, a, b, rfl⟩⟩ := execSetpath_next h
    · exact ⟨l, hl, .inl h⟩
    · exact ⟨l, hl, .inr ⟨_, rfl, ruleKeeps_refl s, fun R hR => hR.writePath _ _ _, .inl rfl, .inl rfl,
        .inr (.inl ⟨v, rfl, rfl⟩)⟩⟩
  | progscale sel =>
    obtain ⟨l, hl, h | ⟨g, tab, sc, s1, a, b, c, hsc, h1, ⟨d, rfl⟩ | ⟨d, e, rfl⟩⟩⟩ := execProgscale_next h
    · exact ⟨l, hl, .inl h⟩
    · have hs : sel = .shrink := isDownscale_shrink (hsc ▸ d)
      refine ⟨l, hl, .inr ⟨_, rfl, ?_, ?_, ?_, .inr ⟨sel, hsc⟩, .inr (.inr ⟨by rw [hs], hs ▸ hsc ▸ d, rfl⟩)⟩⟩
      · subst h1; exact ruleKeeps_refl s
      · intro R hR
        refine hR.trans s.bus s1.bus _ ?_ (hR.downscaleLoads tab l.args s1.cfg s1.bus)
        rw [h1]; exact hR.writeScale _ _ _ _
      · subst h1; exact .inl rfl
    · refine ⟨l, hl, .inr ⟨_, rfl, ?_, ?_, ?_, .inr ⟨sel, hsc⟩, ?_⟩⟩
      · subst h1; exact ruleKeeps_refl s
      · intro R hR
        refine hR.trans s.bus s1.bus _ ?_ (hR.programTiming s1.bus _ _ _)
        rw [h1]; exact hR.writeScale _ _ _ _
      · subst h1; exact .inl rfl
      · subst h1; exact .inl rfl

end Sys2Proof.Machine
end

