-- ==== Sys2Proof/Laws/HostWindow.lean ====
section
/-! SUPPORT. Which offsets the host window decodes, and the fields of the words that it computes (10_state R38, R43). -/

namespace Sys2Proof.Machine

/-- An aligned offset inside the window decodes (R70, R71). -/
theorem windowOffset_base (c : Cfg) {off : Nat} (h4 : off % 4 = 0) (h : off < 0x100) :
    windowOffset c (c.hostBase + off) 4 = some off := by
  simp [windowOffset, h4, h]

/-! ## Fields of STATUS and SCALE_MODE -/

/-- The least significant bit of a word that ends in a flag. -/
theorem append_flag_zero {n : Nat} (x : BitVec n) (b : Bool) : (x ++ flag b).getLsbD 0 = b := by
  rw [BitVec.getLsbD_append]; cases b <;> rfl

/-- Every other bit of a word that ends in a flag. -/
theorem append_flag_succ {n : Nat} (x : BitVec n) (b : Bool) (i : Nat) :
    (x ++ flag b).getLsbD (i + 1) = x.getLsbD i := by
  simp [BitVec.getLsbD_append]

/-- BUSY is bit 0 of STATUS (R38). -/
@[simp] theorem statusWord_busy (s : State) : (statusWord s)[0] = (s.phase == .busy) := by
  rw [← BitVec.getLsbD_eq_getElem, statusWord, append_flag_zero]

/-- The bits of SCALE_MODE (R43). -/
theorem scaleModeWord_bits (sc : ScalingState) :
    (scaleModeWord sc).getLsbD 0 = sc.hshr ∧ (scaleModeWord sc).getLsbD 1 = sc.vshr ∧
    (scaleModeWord sc).getLsbD 2 = sc.hexp ∧ (scaleModeWord sc).getLsbD 3 = sc.vexp ∧
    (scaleModeWord sc).getLsbD 4 = sc.bufshare := by
  unfold scaleModeWord
  refine ⟨?_, ?_, ?_, ?_, ?_⟩ <;> simp only [append_flag_succ, append_flag_zero]

end Sys2Proof.Machine
end

