-- ==== Sys2Proof/Laws/HostProgram.lean ====
section
/-! SUPPORT. What a turn of a Host program can do, said once: the machine steps on the acting input, and the Host's
actions move on unless a poll read BUSY = 1 (30_encoding R111). -/

namespace Sys2Proof.Machine

/-- A step on an input is that input's act, with the pending inputs as they were. -/
theorem stepOn_eq {s : State} (i : Input) (h : admitted s.cfg = true) : stepOn i s = act s i := by
  simp [stepOn, step, h, advance]

/-- A Host read of a decoded offset gives the register there and changes nothing else (R34, R70). -/
theorem stepOn_hostRead {s : State} {off : Nat} (h : admitted s.cfg = true) (h4 : off % 4 = 0) (hlt : off < 0x100) :
    stepOn (.hostRead (s.cfg.hostBase + off) 4) s =
      .next { s with replies := s.replies ++ [⟨off, readReg s (HostReg.atOffset off)⟩] } := by
  simp [stepOn_eq _ h, act, hostRead, windowOffset_base _ h4 hlt]

/-- A Host write of a decoded offset writes the register there (R34, R70). -/
theorem stepOn_hostWrite {s : State} {off : Nat} {w : Word} (h : admitted s.cfg = true) (h4 : off % 4 = 0)
    (hlt : off < 0x100) :
    stepOn (.hostWrite (s.cfg.hostBase + off) 4 w) s = .next (writeReg s (HostReg.atOffset off) w) := by
  simp [stepOn_eq _ h, act, hostWrite, windowOffset_base _ h4 hlt]

/-- A turn answers a next run only by a machine step on the acting input; a Host turn then has its next action behind
it, unless that action repeats, and a Host with no action left changes nothing. -/
theorem takeTurn_next {r r' : HostRun} {u : Turn} (h : takeTurn r u = .next r') :
    (∃ i, u = .other i ∧ stepOn i r.machine = .next r'.machine ∧ r'.todo = r.todo) ∨
    (u = .host ∧ r.todo = [] ∧ r' = r) ∨
    ∃ a rest, u = .host ∧ r.todo = a :: rest ∧
      stepOn (a.input r.machine.cfg.hostBase) r.machine = .next r'.machine ∧
      r'.todo = if a.repeats r'.machine then a :: rest else rest := by
  cases u with
  | other i =>
    simp only [takeTurn] at h
    split at h
    · injection h with h; subst h; exact .inl ⟨i, rfl, ‹_›, rfl⟩
    · cases h
    · cases h
  | host =>
    simp only [takeTurn] at h
    split at h
    · injection h with h; exact .inr (.inl ⟨rfl, ‹_›, h.symm⟩)
    · rename_i a rest hr
      split at h
      · injection h with h; subst h; exact .inr (.inr ⟨a, rest, rfl, hr, ‹_›, rfl⟩)
      · cases h
      · cases h

/-- Turns of a list one after another. -/
theorem takeTurns_append {r r' : HostRun} {us vs : List Turn} (h : takeTurns us r = .next r') :
    takeTurns (us ++ vs) r = takeTurns vs r' := by
  induction us generalizing r with
  | nil => injection h with h; rw [h]; rfl
  | cons u us ih =>
    simp only [takeTurns, List.cons_append] at h ⊢
    split at h
    · exact ih h
    · cases h
    · cases h

end Sys2Proof.Machine
end

