-- ==== Sys2Proof/Laws/PerInstr.lean ====
section
/-! SUPPORT. A per-instruction family: the encoder's word of a command matches its row of spec/opcode_table.json, the
opcode in bits [31:24] and every other bit of the row's mask 0 (30_encoding R102, R104). -/

namespace Sys2Proof.Laws.TableRow

/-- The word of a command has its row's match under its row's mask. -/
def Statement (i : Instr) : Prop := encode i &&& i.format.mask = i.opc.setWidth 32 <<< 24

theorem init (p : Pipe) : Statement (.init p) := by
  unfold Statement
  cases p <;> decide

theorem wrlit (p : Pipe) (imm : BitVec 8) : Statement (.wrlit p imm) := by
  unfold Statement
  cases p <;> revert imm <;> decide

theorem wrval (p : Pipe) (imm : BitVec 8) : Statement (.wrval p imm) := by
  unfold Statement
  cases p <;> revert imm <;> decide

theorem progtim (p : Pipe) (sel : TimingSel) : Statement (.progtim p sel) := by
  unfold Statement
  cases p <;> cases sel <;> decide

theorem synpll (p : Pipe) : Statement (.synpll p) := by
  unfold Statement
  cases p <;> decide

theorem tunefifo (p : Pipe) : Statement (.tunefifo p) := by
  unfold Statement
  cases p <;> decide

theorem compscale (sel : ScaleSel) : Statement (.compscale sel) := by
  unfold Statement
  cases sel <;> decide

theorem setpath (v : PathSel) : Statement (.setpath v) := by
  unfold Statement
  cases v <;> decide

theorem progscale (sel : ScaleSel) : Statement (.progscale sel) := by
  unfold Statement
  cases sel <;> decide

end Sys2Proof.Laws.TableRow
end

