-- ==== Sys2Proof/Tests/Slice0.lean ====
section
/-! SUPPORT. Tests on words and vectors written out from the spec (30_encoding, 95_test_vectors), the smoke tests of the
well-formedness checks, and for each statement with hypotheses a witness that something meets them. Expected values
come from the spec's vectors, named at each test. -/

namespace Sys2Proof.Tests

open Sys2Proof.Machine
open Sys2Proof.Machine.Fixture (cr sr bankCR bankSR genA genB genC xcfg lit0 pllA pllB scaler timing0)

/-! ## Decoding: words written bit by bit from R101 to R105 -/

theorem test_decode_init : decode 0b00000001000000010000000000000000#32 = .ok (.init .p1) := by decide
theorem test_decode_wrlit : decode 0b00000010000000000000000000000010#32 = .ok (.wrlit .p0 2#8) := by decide
theorem test_decode_wrlit_255 : decode 0b00000010000000010000000011111111#32 = .ok (.wrlit .p1 255#8) := by decide
theorem test_decode_wrval : decode 0b00000011000000010000000000001101#32 = .ok (.wrval .p1 13#8) := by decide
theorem test_decode_progtim : decode 0b00010000000000010000000100000000#32 = .ok (.progtim .p1 .synth) := by decide
theorem test_decode_synpll : decode 0b00100000000000000000000000000000#32 = .ok (.synpll .p0) := by decide
theorem test_decode_tunefifo : decode 0b00110000000000010000000000000000#32 = .ok (.tunefifo .p1) := by decide
theorem test_decode_compscale : decode 0b01000000000000000000000100000000#32 = .ok (.compscale .shrink) := by decide
theorem test_decode_setpath : decode 0b01000001000000000000001000000000#32 = .ok (.setpath .none) := by decide
theorem test_decode_progscale : decode 0b01000010000000000000000000000000#32 = .ok (.progscale .expand) := by decide

/-- V-ENC-10 to V-ENC-20. -/
theorem test_decode_illegal :
    [0x00000000, 0x04000000, 0x11000000, 0x43000000, 0xFF000000].map (fun w => decode (BitVec.ofNat 32 w)) =
      List.replicate 5 (.error .unknownOpcode) ∧
    [0x01000001, 0x01020000, 0x10001000, 0x40010000, 0x02000100].map (fun w => decode (BitVec.ofNat 32 w)) =
      List.replicate 5 (.error .reservedBits) ∧
    [0x10000200, 0x40000200, 0x41000300].map (fun w => decode (BitVec.ofNat 32 w)) =
      List.replicate 3 (.error .badSel) ∧
    decode 0x03000010#32 = .error .badImm := by decide

/-- R109: the worked text of R112. -/
theorem test_text : (Instr.wrval .p1 13#8).text = "wrval p1, fifo_thr" ∧
    (Instr.progtim .p1 .synth).text = "progtim p1, synth" := by decide

/-- R77: the bytes of a word, low byte first. -/
theorem test_decode_bytes : decodeBytes [0x0D#8, 0x00#8, 0x01#8, 0x03#8] = .ok (.wrval .p1 13#8, []) ∧
    decodeTableWord 32 0x0301000D = some (.wrval .p1 13#8) := by decide

/-! ## Well-formedness smoke -/

theorem test_wf_wrval_imm : (Instr.wrval .p0 16#8).wf = false ∧ (Instr.wrval .p0 15#8).wf = true := by decide

theorem test_admitted : admitted xcfg = true := by decide

/-- XCFG with generation GB changed. -/
def withB (t : GenTables) : Cfg := { xcfg with gens := [genA, t, genC] }

/-- Generation GB with the scaler changed. -/
def withScaler (c : ScalerCfg) : GenTables := { genB with scaler := c }

/-- Generation GB with primary htotal changed. -/
def withHtotal (e : TimingEntry) : GenTables := { genB with timing := ⟨{ timing0 with htotal := e }, genB.timing.secondary⟩ }

/-- Generation GB with PllCfg B changed. -/
def withPll (f : PllCfg → PllCfg) : GenTables := { genB with pll := some (f pllB) }

theorem test_wf1_bank : admitted (withB (withScaler { scaler with hEn := [⟨2, 0#8, 0, 0⟩] })) = false := by decide
theorem test_wf1_bounds : admitted (withB (withScaler { scaler with hEn := [cr 0xA3 8 8] })) = false := by decide
theorem test_wf1_bit : admitted (withB (withPll fun q => { q with rst := ⟨1, 0x40#8, 8⟩ })) = false := by decide
theorem test_wf2 : admitted (withB { genB with lit := [[(sr 0 0 4, 0#8), (sr 0 4 7, 0#8)]] }) = false := by decide
theorem test_wf3 : admitted (withB (withScaler { scaler with vFac := [cr 0xA2 0 7] })) = false := by decide
theorem test_wf4 : admitted (withB { genB with
    timing := ⟨{ timing0 with hdisplay := { timing0.hdisplay with div := 0 } }, genB.timing.secondary⟩ }) = false := by
  decide
theorem test_wf5 : admitted (withB (withHtotal { timing0.htotal with bias := 4 })) = false := by decide
theorem test_wf6_empty : admitted (withB (withPll fun q => { q with table := [] })) = false := by decide
theorem test_wf6_div : admitted (withB (withPll fun q => { q with enc := .C, table := [⟨1, 0, 0⟩] })) = false := by decide
theorem test_wf7 : admitted (withB (withPll fun q => { q with table := [⟨1, 7, 0⟩] })) = false := by decide
theorem test_wf8 : admitted (withB (withPll fun q => { q with divRegs := pllA.divRegs })) = false := by decide
theorem test_wf9 : admitted (withB { genB with fifoTable := [(⟨.p1, 4, 8#8, 0#8⟩, ⟨65536, 0, 0, 0⟩)] }) = false := by
  decide
theorem test_wf10 : admitted (withB (withScaler { scaler with pathEnc := ⟨0, 2, 0⟩ })) = false := by decide
theorem test_wf11 : admitted { xcfg with resolve := [(5#16, 3)] } = false := by decide
theorem test_wf12 : admitted (withB { genB with fifoTable := [(⟨.p0, 1, 32#8, 9#8⟩, ⟨384, 328, 296, 32⟩)] }) = false := by
  decide
theorem test_gen_count : admitted { xcfg with gens := [], resolve := [], midGen32 := none } = false := by decide

/-! ## States for the tests -/

/-- The timing G3 of 95_test_vectors 3.4. -/
def g3 : Crtc (BitVec 16) :=
  ⟨1344#16, 1024#16, 1024#16, 1344#16, 1048#16, 1184#16, 806#16, 768#16, 768#16, 806#16, 771#16, 777#16⟩

/-- A source mode of 1280 by 1024, with edges past its totals. -/
def srcMode : Crtc (BitVec 16) :=
  ⟨1688#16, 1280#16, 1280#16, 1700#16, 1328#16, 1440#16, 1066#16, 1024#16, 1024#16, 1070#16, 1025#16, 1028#16⟩

/-- CHIPID 2, DEPTH 32, 65 000 kHz, D_T = G3. -/
def args : ArgRegs :=
  { ArgRegs.reset with chipId := 2, depth := 32, value := 0x10E, dClockKhz := 65000, dT := g3, sT := srcMode }

/-- Boot(2; 0, 1) of 95_test_vectors 1.7, with the arguments above. -/
def boot : State :=
  { State.reset with gen := ⟨some 1, some 1⟩, hr := { HostRegs.reset with args := args } }

/-- Both pipes free. -/
def unbound : State := { boot with gen := ⟨none, none⟩ }

/-- One byte stored in the device. -/
def withByte (s : State) (b : Bank) (o v : Byte) : State := s.onBus fun bus => bus.poke b o v

/-- A command accepted and ready to execute. -/
def placed (i : Instr) (s : State) : State := s.accept (encode i)

/-- The state a command's execution leaves. -/
def ran (i : Instr) (s : State) : Option State :=
  match exec i (placed i s) with
  | .next t => some t
  | .fault _ => none
  | .refused _ => none

/-- The verdict and the events of a command. -/
def errTrace (i : Instr) (s : State) : Option (Verdict × List Event) :=
  (ran i s).map fun t => (t.hr.err, t.bus.trace)

/-! ## One step per command, from the spec's vectors -/

/-- V-GEN-1. -/
theorem test_init : (ran (.init .p0) unbound).map (fun t => (t.hr.err, readReg t (.gen .p0), readReg t (.gen .p1))) =
    some (.ok, 0x80000001#32, 0#32) := by decide

/-- V-GEN-4: another generation than the other pipe's. -/
theorem test_init_other : (ran (.init .p1) { boot with gen := ⟨some 0, none⟩ }).map (fun t => t.hr.err) =
    some (.error .unsupportedDevice) := by decide

/-- V-BF-4. -/
theorem test_wrlit : errTrace (.wrlit .p0 0) (withByte boot 1 0x1A#8 0xFF#8) =
    some (.ok, [.rd 1 0x15#8 0x00#8, .wr 1 0x15#8 0xA2#8, .rd 1 0x1A#8 0xFF#8, .wr 1 0x1A#8 0xFB#8]) := by decide

/-- V-BF-5. -/
theorem test_wrlit_imm : errTrace (.wrlit .p0 1) boot = some (.error .illegalCommand, []) := by decide

/-- V-BF-1. -/
theorem test_wrval : errTrace (.wrval .p0 0) (withByte boot 0 0x36#8 0xF7#8) =
    some (.ok, [.rd 0 0x00#8 0x00#8, .wr 0 0x00#8 0x0E#8, .rd 0 0x36#8 0xF7#8, .wr 0 0x36#8 0xFF#8]) := by decide

/-- V-BF-9. -/
theorem test_wrval_fifo :
    errTrace (.wrval .p0 15)
      (withByte { boot with hr := { boot.hr with args := { args with value := 0x2A } } } 1 0x22#8 0xC0#8) =
    some (.ok, [.rd 1 0x22#8 0xC0#8, .wr 1 0x22#8 0xEA#8]) := by decide

/-- V-TIM-1: the first and the last register pair. -/
theorem test_progtim : (errTrace (.progtim .p0 .mode) (withByte boot 0 0x36#8 0xF7#8)).map
    (fun r => (r.1, r.2.length, r.2.take 4, r.2.drop 44)) =
    some (.ok, 48, [.rd 0 0x00#8 0x00#8, .wr 0 0x00#8 0xA3#8, .rd 0 0x36#8 0xF7#8, .wr 0 0x36#8 0xF7#8],
      [.rd 0 0x56#8 0x00#8, .wr 0 0x56#8 0x09#8, .rd 0 0x57#8 0x00#8, .wr 0 0x57#8 0x03#8]) := by decide +kernel

/-- R175: SYNTH on the scaler pipe needs the path at SRC. -/
theorem test_progtim_path : errTrace (.progtim .p1 .synth) boot = some (.error .pathMismatch, []) := by decide

/-- V-PLL-3 and program P2: entry 2, code 0x070894, the bytes 0x94, 0x08, 0x07. -/
theorem test_synpll : (ran (.synpll .p0) boot).map (fun t => (t.hr.err, t.hr.pll, t.bus.peek 1 0x44#8, t.bus.peek 1 0x45#8,
    t.bus.peek 1 0x46#8, t.bus.trace.length)) =
    some (.ok, ⟨2, 0x070894, 59659050⟩, 0x94#8, 0x08#8, 0x07#8, 14) := by decide +kernel

/-- R197: a generation with no PLL table. -/
theorem test_synpll_none : errTrace (.synpll .p0) { boot with gen := ⟨some 2, some 2⟩ } =
    some (.error .unsupportedDevice, []) := by decide

/-- V-FIFO-1: 96, 82, 74 and 32 written, 384, 328, 296 and 128 returned. -/
theorem test_tunefifo : (ran (.tunefifo .p0) boot).map (fun t => (t.hr.err, t.hr.fifo, t.bus.peek 1 0x17#8,
    t.bus.peek 1 0x16#8, t.bus.peek 1 0x18#8, t.bus.peek 1 0x22#8)) =
    some (.ok, ⟨384, 328, 296, 128⟩, 96#8, 82#8, 74#8, 32#8) := by decide

/-- R221: 1024 wide is tier 0 when thresholds are exclusive. -/
theorem test_tunefifo_tier : (ran (.tunefifo .p0) { boot with cfg := { xcfg with tierInclusive := false } }).map
    (fun t => t.hr.fifo) = some ⟨384, 328, 296, 64⟩ := by decide

/-- V-SC-2: 1280 by 1024 to 1024 by 768. -/
theorem test_compscale : (ran (.compscale .shrink) boot).map (fun t => (t.hr.err, t.scale)) =
    some (.ok, ⟨true, true, false, false, false, 1024, 682⟩) := by decide

/-- S-3: EXPAND to width 1 is InvalidGeometry. -/
theorem test_compscale_geometry : errTrace (.compscale .expand)
    { boot with hr := { boot.hr with args := { args with dT := { g3 with hdisplay := 1 } } } } =
    some (.error .invalidGeometry, []) := by decide

/-- V-SC-6. -/
theorem test_setpath : errTrace (.setpath .src) (withByte boot 0 0xA4#8 0x01#8) =
    some (.ok, [.rd 0 0xA4#8 0x01#8, .wr 0 0xA4#8 0x03#8]) := by decide

/-- R44: PATH reads 2 after SETPATH NONE. -/
theorem test_setpath_none : (ran (.setpath .none) boot).map (fun t => readReg t .path) = some 2#32 := by decide

/-- R260: a downscale ends at DST, 7 scaler fields + 2 pairs more, 3 path writes and two timing loads. -/
theorem test_progscale : (ran (.progscale .shrink) boot).map (fun t => (t.hr.err, t.path, t.bus.trace.length)) =
    some (.ok, .dst, 2 * 9 + 3 * 2 + 2 * 48) := by decide +kernel

/-- R260: an upscale while the path is SRC. -/
theorem test_progscale_path : errTrace (.progscale .expand) { boot with path := .src } =
    some (.error .pathMismatch, []) := by decide

/-- R345: no pipe is ready before a mode-set. -/
theorem test_not_ready : State.reset.readyToEnable .p0 = false ∧ State.reset.readyToEnable .p1 = false := by decide

/-- `boot` after some completions. -/
def after (h : List (Instr × Verdict)) : State := { boot with history := h.map fun x => ⟨some x.1, x.2⟩ }

/-- R345, 1: a pipe that is ready is not so while a timing command or a timing WRVAL of it is accepted and not
completed. -/
theorem test_ready_pending : (after [(.progtim .p1 .mode, .ok)]).readyToEnable .p1 = true ∧
    (placed (.progtim .p1 .mode) (after [(.progtim .p1 .mode, .ok)])).readyToEnable .p1 = false ∧
    (placed (.wrval .p1 0) (after [(.progtim .p1 .mode, .ok)])).readyToEnable .p1 = false := by decide

/-- R345, 4: a SYNPLL has to follow the last PROGTIM of either selector, and need not follow a PROGSCALE. -/
theorem test_ready_pll :
    (after [(.progtim .p1 .mode, .ok), (.synpll .p1, .ok)]).readyToEnable .p1 = true ∧
    (after [(.progtim .p1 .mode, .ok), (.synpll .p1, .ok), (.progtim .p1 .synth, .ok)]).readyToEnable .p1 = false ∧
    (after [(.progtim .p1 .mode, .ok), (.synpll .p1, .ok), (.progscale .shrink, .ok)]).readyToEnable .p1 = true := by
  decide

/-- R345, 3: a TUNEFIFO that was UnsupportedDevice stands until a whole mode-set succeeds, in any order (R346). -/
theorem test_ready_support :
    (after [(.tunefifo .p0, .error .unsupportedDevice), (.progtim .p0 .mode, .ok), (.synpll .p0, .ok)]).readyToEnable .p0 =
      false ∧
    (after [(.tunefifo .p0, .error .unsupportedDevice), (.tunefifo .p0, .ok), (.progtim .p0 .mode, .ok),
      (.synpll .p0, .ok)]).readyToEnable .p0 = true := by decide

/-- R111: each command of `modeset p1` is an `issue` of its own. -/
theorem test_modeset : (HostLine.modeset .p1).acts = [.write 0 0x10010000#32, .pollIdle, .write 0 0x20010000#32, .pollIdle,
    .write 0 0x30010000#32, .pollIdle] := by decide

/-- R111: `waitidle` ends at the first read with BUSY = 0, and stays while it reads BUSY = 1. -/
theorem test_waitidle :
    (match takeTurns [.host, .host] ⟨boot, HostLine.waitIdle.acts⟩ with
      | .next r => some (r.todo, r.machine.replies)
      | .fault _ => none
      | .refused _ => none) = some ([], [⟨4, 0#32⟩]) ∧
    (match takeTurns [.host, .host] ⟨boot, HostLine.issue 0#32 |>.acts⟩ with
      | .next r => some (r.todo, r.machine.replies)
      | .fault _ => none
      | .refused _ => none) = some ([.pollIdle], [⟨4, 1#32⟩]) := by decide

/-! ## Witnesses: states and operands that meet the hypotheses of each statement -/

/-- A command accepted in `boot`. -/
def busy (i : Instr) : State := placed i boot

/-- `s` with one pending input. -/
def given (s : State) (i : Input) : State := { s with inputs := [i] }

/-- `boot` with other destination and source sizes. -/
def sized (sh sv dh dv : BitVec 16) : ArgRegs :=
  { args with sT := { srcMode with hdisplay := sh, vdisplay := sv }, dT := { g3 with hdisplay := dh, vdisplay := dv } }

/-- A scaling command's start with the given sizes and path. -/
def scaling (x : ArgRegs) (q : PathMirror) : State :=
  { boot with hr := { boot.hr with args := x }, latch := some ⟨0, x⟩, path := q }

/-- The latch of `busy i`. -/
def latchOf (i : Instr) : Latch := ⟨encode i, args⟩

theorem genB_ok : genOk xcfg genB = true := by decide
theorem boot_gensOk : boot.gensOk := by
  refine ⟨fun p g h => ?_, fun g g' h h' => ?_⟩
  · cases p <;> (injection h with h; subst h; decide)
  · injection h with h; injection h' with h'; omega

theorem boot_scale_ok : boot.scale.ok := by
  refine ⟨?_, ?_, ?_, ?_⟩ <;> decide

/-- The invariant holds of a busy machine with two bound pipes. -/
theorem busy_inv (i : Instr) : (busy i).Inv :=
  ⟨test_admitted, Memory.nil_wf, boot_gensOk, boot_scale_ok, fun _ => ⟨rfl, latchOf i, rfl, rfl⟩⟩

theorem witness_DecodeEncodeRoundTrip : (Instr.wrval .p1 15#8).wf = true ∧ (Instr.wrlit .p0 255#8).wf = true := by decide

theorem witness_DecodedWordIsItsEncoding : decode 0x0300000F#32 = .ok (.wrval .p0 15#8) := by decide

theorem witness_StepRunsDecodedCommand :
    admitted (busy (.synpll .p0)).cfg = true ∧ (busy (.synpll .p0)).phase = .busy ∧
    (busy (.synpll .p0)).latch = some (latchOf (.synpll .p0)) ∧
    decode (latchOf (.synpll .p0)).word = .ok (.synpll .p0) ∧ (busy (.synpll .p0)).inputs = [] ∧
    (given (busy (.synpll .p0)) .engine).inputs = .engine :: [] ∧ (Instr.synpll .p0).wf = true := by decide

/-- A step executes a placed word from reset: the command completes with NotInitialized, as no pipe is bound. -/
theorem test_step_placed : (match step (State.reset.withFetchWord 32 0x20000000) with
    | .next t => some (t.phase, t.hr.err)
    | .fault _ => none
    | .refused _ => none) = some (.idle, .error .notInitialized) := by decide

theorem witness_IllegalWordCompletes : admitted (boot.accept 0#32).cfg = true ∧ (boot.accept 0#32).phase = .busy ∧
    (boot.accept 0#32).latch = some ⟨0#32, args⟩ ∧ decode 0#32 = .error .unknownOpcode ∧ (boot.accept 0#32).inputs = [] := by
  decide

theorem witness_EngineIdleTakesNoStep : admitted boot.cfg = true ∧ boot.phase = .idle ∧ boot.inputs = [] ∧
    (given boot .engine).inputs = .engine :: [] := by decide

theorem witness_StepKeepsInvariant : (busy (.init .p0)).Inv ∧ ∃ t, step (busy (.init .p0)) = .next t :=
  ⟨busy_inv _, _, rfl⟩

theorem witness_InvariantExcludesInternalStops : (busy (.tunefifo .p1)).Inv := busy_inv _

theorem witness_ConfigurationNeverChanges : ∃ t, step (given boot (.hostWrite 0 4 0x20000000#32)) = .next t := ⟨_, rfl⟩

theorem witness_UnadmittedConfigurationRefused : admitted { xcfg with resolve := [(5#16, 3)] } = false := test_wf11

theorem witness_TraceTellsDeviceSpace : (∃ t, step (given (busy (.setpath .src)) .engine) = .next t) ∧
    (given (busy (.setpath .src)) .engine).inputs ≠ [.extDevWrite 0 0 0] := ⟨⟨_, rfl⟩, by decide⟩

theorem witness_EmptyLatchStops : boot.latch = none := rfl

theorem witness_ErrorsChangeNothingButStatus : ∃ t, execute (busy (.init .p0)) = .next t ∧
    t.hr.err = .error .alreadyInitialized := ⟨_, rfl, rfl⟩

theorem witness_CompletionFrame : ∃ t, exec (.setpath .dst) (busy (.setpath .dst)) = .next t := ⟨_, rfl⟩

theorem witness_ErrorPriority : admitted (busy (.tunefifo .p1)).cfg = true ∧ (busy (.tunefifo .p1)).gensOk ∧
    (busy (.tunefifo .p1)).latch = some (latchOf (.tunefifo .p1)) := ⟨test_admitted, boot_gensOk, rfl⟩

/-- Two states that differ in OVR, the live arguments and the trace. -/
theorem witness_OutcomeDependsOnLatchAndDevice :
    let s := busy (.setpath .dst)
    let s' := { s with hr := { s.hr with ovr := true, args := ArgRegs.reset }, bus := ⟨s.bus.dev, [.wait 1]⟩ }
    s ≠ s' ∧ s.latch = s'.latch ∧ s.gen = s'.gen ∧ s.path = s'.path ∧ s.cfg = s'.cfg ∧ s.bus.dev = s'.bus.dev ∧
      ∃ t, exec (.setpath .dst) s = .next t :=
  ⟨fun h => absurd (congrArg (fun s => s.hr.ovr) h) (by decide), rfl, rfl, rfl, rfl, rfl, _, rfl⟩

theorem witness_ArgumentWritesWhileBusyAreSafe : ∃ t, execute (busy (.setpath .dst)) = .next t := ⟨_, rfl⟩

/-- INIT of pipe 1 with pipe 0 bound: pipe 0 stays, pipe 1 becomes bound. -/
theorem witness_GenerationBoundOnceByInit :
    let s := placed (.init .p1) { boot with gen := ⟨some 1, none⟩ }
    (∃ t, step s = .next t ∧ t.gen.get .p1 = some 1) ∧ s.inputs ≠ [.reset] ∧ s.gen.get .p0 = some 1 ∧
      s.gen.get .p1 = none := ⟨⟨_, rfl, rfl⟩, by decide, rfl, rfl⟩

theorem witness_PathMovesOnlyByScalerCommands : (∃ t, step (busy (.setpath .src)) = .next t ∧
    t.path ≠ (busy (.setpath .src)).path) ∧ ∃ t, step (busy (.progscale .shrink)) = .next t ∧
    t.path ≠ (busy (.progscale .shrink)).path := ⟨⟨_, rfl, by decide⟩, _, rfl, by decide⟩

theorem witness_ResultsChangeOnlyAtCompletion :
    let i := Input.hostWrite 0x18 4 7#32
    (given boot i).inputs = i :: [] ∧ i ≠ .engine ∧ i ≠ .reset ∧ ∃ t, step (given boot i) = .next t :=
  ⟨rfl, by decide, by decide, _, rfl⟩

theorem witness_WriteValueReadsBack : (∀ f ∈ timing0.htotal.list.fields, f.lo ≤ f.hi ∧ f.hi ≤ 7) ∧
    disjointFields timing0.htotal.list.fields = true := by decide

theorem witness_WriteLiteralPlacesBits : (∀ c ∈ lit0, c.1.lo ≤ c.1.hi ∧ c.1.hi ≤ 7) ∧
    disjointFields (lit0.map Prod.fst) = true ∧ lit0 ≠ [] := by decide

/-- IMM 0 and 11 are the first and last timing lists, 12 and 15 the first and last FIFO lists, 16 none. -/
theorem witness_WrvalWritesValue : (busy (.wrval .p0 0)).latch = some (latchOf (.wrval .p0 0)) ∧
    (busy (.wrval .p0 0)).bound .p0 = some genB ∧
    CrtcParam.all[(0#8).toNat]? = some .htotal ∧ CrtcParam.all[(11#8).toNat]? = some .vsyncEnd ∧
    CrtcParam.all[(12#8).toNat]? = none ∧ 12 ≤ (12#8).toNat ∧ FifoParam.all[(12#8).toNat - 12]? = some .maxDepth ∧
    FifoParam.all[(15#8).toNat - 12]? = some .expireNum ∧ FifoParam.all[(16#8).toNat - 12]? = none ∧
    16 ≤ (16#8).toNat := by decide

/-- GB has one table: IMM 0 names it, IMM 1 none. -/
theorem witness_WrlitWritesTable : (busy (.wrlit .p0 0)).latch = some (latchOf (.wrlit .p0 0)) ∧
    (busy (.wrlit .p0 0)).bound .p0 = some genB ∧ genB.lit[(0#8).toNat]? = some lit0 ∧
    genB.lit.length ≤ (1#8).toNat ∧ (placed (.wrlit .p0 0) unbound).gen.get .p0 = none := by decide

/-- A free pipe with the other free, and with the other bound to the same generation. -/
theorem witness_InitBindsGeneration :
    let s := placed (.init .p0) unbound
    let s' := placed (.init .p1) { boot with gen := ⟨some 1, none⟩ }
    admitted s.cfg = true ∧ s.latch = some (latchOf (.init .p0)) ∧ s.gen.get .p0 = none ∧
    s.cfg.resolveChip (latchOf (.init .p0)).args.chipId = some 1 ∧ s.gen.get Pipe.p0.other = none ∧
    s'.gen.get .p1 = none ∧ s'.gen.get Pipe.p1.other = some 1 := by decide

theorem witness_InitRejects :
    let s := placed (.init .p1) { boot with gen := ⟨some 0, none⟩ }
    s.latch = some (latchOf (.init .p1)) ∧ (busy (.init .p0)).gen.get .p0 = some 1 ∧ s.gen.get .p1 = none ∧
    s.cfg.resolveChip 3#16 = none ∧ s.cfg.resolveChip (latchOf (.init .p1)).args.chipId = some 1 ∧
    s.gen.get Pipe.p1.other = some 0 ∧ 0 ≠ 1 := by decide

/-- MODE on the other pipe, MODE on the scaler pipe at DST, SYNTH on the scaler pipe at SRC. -/
theorem witness_ProgtimLoadsTiming :
    (busy (.progtim .p0 .mode)).latch = some (latchOf (.progtim .p0 .mode)) ∧
    (busy (.progtim .p0 .mode)).bound .p0 = some genB ∧ Pipe.p0 ≠ xcfg.scalerPipe ∧
    (scaling args .dst).bound .p1 = some genB ∧ Pipe.p1 = xcfg.scalerPipe ∧
    (TimingSel.mode = .synth ↔ (scaling args .dst).path = .src) ∧
    (TimingSel.synth = .synth ↔ (scaling args .src).path = .src) := by decide

theorem witness_ProgtimPathGuard : (scaling args .src).latch = some ⟨0, args⟩ ∧ Pipe.p0 ≠ xcfg.scalerPipe ∧
    (scaling args .src).bound .p1 = some genB ∧ Pipe.p1 = xcfg.scalerPipe ∧ (scaling args .src).path = .src ∧
    (scaling args .none).path ≠ .src := by decide

theorem witness_ProgramTimingReadsBack : genOk xcfg genB = true ∧
    disjointFields (timingLists genB .p0).flatten = true ∧ disjointFields (timingLists genB .p1).flatten = true := by
  decide

theorem witness_DocumentTimingFormulas : genOk xcfg genA = true := by decide

/-- GB has a PLL table, GC none. -/
theorem witness_SynpllProgramsSearchedEntry : admitted (busy (.synpll .p0)).cfg = true ∧
    (busy (.synpll .p0)).latch = some (latchOf (.synpll .p0)) ∧ (busy (.synpll .p0)).bound .p0 = some genB ∧
    genB.pll = some pllB ∧ { busy (.synpll .p0) with gen := ⟨some 2, some 2⟩ }.bound .p0 = some genC ∧
    genC.pll = none := by decide

theorem witness_PllSequenceOrder : pllB.rst.bit ≤ 7 ∧ (pllB.clkEn.get .p1).bit ≤ 7 ∧
    (pllB.divRegs.get .p1).length = pllBytes pllB.enc ∧ (pllA.divRegs.get .p0).length = pllBytes pllA.enc := by decide

theorem witness_SearchFindsNearestEntry : pllB.table ≠ [] := by decide

/-- The largest entry of each encoding, and the smallest of B. -/
theorem witness_DividerWordFieldsApart : pllFits .A ⟨255, 63, 3⟩ = true ∧ pllFits .B ⟨1025, 257, 63⟩ = true ∧
    pllFits .B ⟨2, 2, 0⟩ = true ∧ pllFits .C ⟨1023, 255, 63⟩ = true := by decide

/-- A key with an entry, a key with none, and lists that share no bit. -/
theorem witness_TunefifoWritesConstants : admitted (busy (.tunefifo .p0)).cfg = true ∧
    (busy (.tunefifo .p0)).latch = some (latchOf (.tunefifo .p0)) ∧ (busy (.tunefifo .p0)).bound .p0 = some genB ∧
    genB.fifoAt ⟨.p0, tier xcfg.tierInclusive args.dT.hdisplay.toNat, args.depth, args.memTier⟩ =
      some ⟨384, 328, 296, 128⟩ ∧
    genB.fifoAt ⟨.p0, tier xcfg.tierInclusive 1600, args.depth, args.memTier⟩ = none ∧
    disjointFields (fifoListsOf genB .p0).flatten = true := by decide

/-- Two states with other CHIPID, VALUE and device bytes. -/
theorem witness_TunefifoIsDeterministic :
    let x := { args with chipId := 9, value := 0 }
    let s := busy (.tunefifo .p0)
    let s' := withByte { s with latch := some ⟨0, x⟩ } 0 1 1
    s.cfg = s'.cfg ∧ s.gen.get .p0 = s'.gen.get .p0 ∧ s.latch = some (latchOf (.tunefifo .p0)) ∧
    s'.latch = some ⟨0, x⟩ ∧ args.dT.hdisplay = x.dT.hdisplay ∧ args.depth = x.depth ∧ args.memTier = x.memTier ∧
    (∃ u, exec (.tunefifo .p0) s = .next u ∧ u.hr.err = .ok) ∧ ∃ u, exec (.tunefifo .p0) s' = .next u :=
  ⟨rfl, rfl, rfl, rfl, rfl, rfl, rfl, ⟨_, rfl, rfl⟩, _, rfl⟩

theorem witness_SourceFifoConstants : admitted (busy (.tunefifo .p0)).cfg = true ∧ xcfg.midGen32 = some 1 ∧
    (busy (.tunefifo .p0)).gen.get .p0 = some 1 ∧ xcfg.gens[1]? = some genB ∧
    (busy (.tunefifo .p0)).latch = some (latchOf (.tunefifo .p0)) ∧ args.dT.hdisplay = 1024#16 ∧ args.depth = 32#8 ∧
    genB.fifoAt ⟨.p0, tier xcfg.tierInclusive 1024, 32#8, args.memTier⟩ = some ⟨384, 328, 296, 128⟩ := by decide

/-- The least sizes of each type. -/
theorem witness_CompscaleComputesFactors : (scaling (sized 1 1 2 2) .unknown).latch = some ⟨0, sized 1 1 2 2⟩ ∧
    (scaling (sized 1 1 2 2) .unknown).bound xcfg.scalerPipe = some genB ∧
    0 < (sized 1 1 2 2).sT.hdisplay.toNat ∧ 0 < (sized 1 1 2 2).sT.vdisplay.toNat ∧
    2 ≤ (sized 1 1 2 2).dT.hdisplay.toNat ∧ 2 ≤ (sized 1 1 2 2).dT.vdisplay.toNat ∧
    0 < (sized 1 1 1 1).dT.hdisplay.toNat ∧ 0 < (sized 1 1 1 1).dT.vdisplay.toNat := by decide

theorem witness_ScalerFieldsReadBack : genOk xcfg genB = true ∧
    disjointFields (scaleLists genB.scaler).flatten = true := by decide

/-- A zero size, a destination of width 1 under EXPAND, and the least sizes that are valid. -/
theorem witness_DegenerateGeometryRejected : (scaling (sized 0 1 2 2) .dst).latch = some ⟨0, sized 0 1 2 2⟩ ∧
    (scaling (sized 0 1 2 2) .dst).bound xcfg.scalerPipe = some genB ∧ (sized 0 1 2 2).sT.hdisplay.toNat = 0 ∧
    (sized 1 1 1 2).dT.hdisplay.toNat < 2 ∧ (sized 1 1 1 2).dT.hdisplay.toNat ≠ 0 ∧
    badGeometry .expand ⟨1, 1⟩ ⟨2, 2⟩ = false ∧ badGeometry .shrink ⟨1, 1⟩ ⟨1, 1⟩ = false := by decide

theorem witness_SetpathWritesFieldAndMirror : admitted (busy (.setpath .src)).cfg = true ∧
    (busy (.setpath .src)).latch = some (latchOf (.setpath .src)) ∧
    (busy (.setpath .src)).bound (busy (.setpath .src)).cfg.scalerPipe = some genB := by decide

theorem witness_ProgscaleDownscaleEndsAtDst : admitted (scaling args .src).cfg = true ∧
    (scaling args .src).latch = some ⟨0, args⟩ ∧ (scaling args .src).bound xcfg.scalerPipe = some genB ∧
    badGeometry .shrink (srcSize args) (dstSize args) = false ∧
    isDownscale (scalingOf .shrink (srcSize args) (dstSize args)) = true := by decide

/-- An upscale, and a shrink of equal sizes, from a path that is and one that is not SRC. -/
theorem witness_ProgscaleWithoutDownscale :
    (scaling args .unknown).latch = some ⟨0, args⟩ ∧ (scaling args .unknown).bound xcfg.scalerPipe = some genB ∧
    badGeometry .expand (srcSize args) (dstSize args) = false ∧
    isDownscale (scalingOf .expand (srcSize args) (dstSize args)) = false ∧
    badGeometry .shrink ⟨9, 9⟩ ⟨9, 9⟩ = false ∧ isDownscale (scalingOf .shrink ⟨9, 9⟩ ⟨9, 9⟩) = false ∧
    (scaling args .unknown).path ≠ .src ∧ (scaling args .src).path = .src := by decide

theorem witness_ManualDownscaleEqualsProgscale : boot.bound boot.cfg.scalerPipe = some genB ∧
    badGeometry .shrink (srcSize boot.hr.args) (dstSize boot.hr.args) = false ∧
    isDownscale (scalingOf .shrink (srcSize boot.hr.args) (dstSize boot.hr.args)) = true := by decide

theorem witness_WindowMap : HostReg.path ≠ .reserved ∧ HostReg.path.offset = 0xD0 ∧
    HostReg.atOffset 0xD4 = .reserved := by decide

theorem witness_CmdWriteAcceptsOrOverruns :
    let i := Input.hostWrite boot.cfg.hostBase 4 0x20000000#32
    admitted boot.cfg = true ∧ (given boot i).inputs = i :: [] ∧ (given boot i).phase = .idle ∧
    (given (busy (.init .p0)) i).inputs = i :: [] ∧ (given (busy (.init .p0)) i).phase = .busy ∧
    ∃ t, step (given boot i) = .next t := ⟨test_admitted, rfl, rfl, rfl, rfl, _, rfl⟩

theorem witness_StatusWriteClearsSticky : admitted boot.cfg = true ∧
    (given boot (.hostWrite (boot.cfg.hostBase + 4) 4 6#32)).inputs =
      .hostWrite (boot.cfg.hostBase + 4) 4 6#32 :: [] := by decide

/-- The first and the last offset of the window. -/
theorem witness_HostReadHasNoSideEffect : admitted boot.cfg = true ∧ 0xFC % 4 = 0 ∧ 0xFC < 0x100 ∧ 0 % 4 = 0 ∧
    (given boot (.hostRead (boot.cfg.hostBase + 0xFC) 4)).inputs = .hostRead (boot.cfg.hostBase + 0xFC) 4 :: [] ∧
    HostReg.atOffset 0xFC = .reserved ∧ HostReg.atOffset 0 = .cmd := by decide

/-- A write of D_T[11] at its offset, an argument register and a read-only one. -/
theorem witness_RegisterWriteStoresUsedBits :
    let i := Input.hostWrite (boot.cfg.hostBase + 0x4C) 4 7#32
    admitted boot.cfg = true ∧ 0x4C % 4 = 0 ∧ 0x4C < 0x100 ∧ (given boot i).inputs = i :: [] ∧
    HostReg.atOffset 0x4C = .dT .vsyncEnd ∧ usedMask .chipId = some 0x0000FFFF#32 ∧ HostReg.value ≠ .chipId ∧
    usedMask .path = none ∧ HostReg.path ≠ .cmd ∧ HostReg.path ≠ .status := by decide

/-- The last decoded offset, the first past it, a narrow access and an unaligned one. -/
theorem witness_UndecodedAccessRefused : admitted boot.cfg = true ∧
    (given boot (.hostRead 0x100 4)).inputs = .hostRead 0x100 4 :: [] ∧
    (given boot (.hostWrite 0xFC 4 1#32)).inputs = .hostWrite 0xFC 4 1#32 :: [] ∧
    windowOffset xcfg 0xFC 4 = some 0xFC ∧ windowOffset xcfg 0x100 4 = none ∧ windowOffset xcfg 8 2 = none ∧
    windowOffset xcfg 6 4 = none := by decide

theorem witness_ResetRestoresOwnState : admitted boot.cfg = true ∧ (given boot .reset).inputs = .reset :: [] ∧
    (given boot .reset).phase = .idle ∧ (given (busy (.init .p0)) .reset).inputs = .reset :: [] ∧
    (given (busy (.init .p0)) .reset).phase = .busy := by decide

theorem witness_ExtDevWriteOnlyInIdle :
    let i := Input.extDevWrite bankSR 0x10 0xFF
    admitted boot.cfg = true ∧ (given boot i).inputs = i :: [] ∧ (given boot i).phase = .idle ∧
    xcfg.banks.contains bankSR = true ∧ (given (busy (.init .p0)) i).inputs = i :: [] ∧
    (given (busy (.init .p0)) i).phase = .busy := by decide

theorem witness_ReadyAfterModeSet : (∃ t, exec (.progtim .p0 .mode) (busy (.progtim .p0 .mode)) = .next t ∧
    t.hr.err = .ok) ∧ Pipe.p0 ≠ (busy (.progtim .p0 .mode)).cfg.scalerPipe ∧
    (∀ c ∈ (busy (.progtim .p0 .mode)).history,
      c.cmd ≠ some (.synpll .p0) ∧ c.unsupportedOn (busy (.progtim .p0 .mode)).cfg .p0 = false) :=
  ⟨⟨_, rfl, rfl⟩, by decide, fun _ h => nomatch h⟩

/-- The clauses of duties 3 and 4, and of a PROGSCALE accepted on a pipe that was ready, which is not ready until it has
completed. -/
theorem witness_ReadyAfterModeSet_duties :
    let s₀ := after [(.progtim .p1 .mode, .ok)]
    let s := s₀.accept (encode (.progscale .expand))
    let s3 := placed (.progtim .p0 .mode) (after [(.tunefifo .p0, .error .unsupportedDevice)])
    let s4 := placed (.progtim .p0 .mode) (after [(.synpll .p0, .ok)])
    (∃ t, exec (.progscale .expand) s = .next t ∧ t.hr.err = .ok) ∧ s₀.readyToEnable .p1 = true ∧
    s.phase = .busy ∧ Pipe.p1 = s.cfg.scalerPipe ∧ (∃ t, exec (.progtim .p0 .mode) s3 = .next t) ∧
    s3.history = [] ++ [⟨some (.tunefifo .p0), .error .unsupportedDevice⟩] ∧
    (∃ t, exec (.progtim .p0 .mode) s4 = .next t) ∧ ∃ c ∈ s4.history, c.cmd = some (.synpll .p0) :=
  ⟨⟨_, rfl, rfl⟩, by decide, rfl, rfl, ⟨_, rfl⟩, rfl, ⟨_, rfl⟩, _, .head _, rfl⟩

/-- SYNPLL issued from IDLE, with two polls before the Engine's turn. -/
theorem witness_IssueWaitsForItsCommand : admitted boot.cfg = true ∧ boot.phase = .idle ∧
    ∃ u, execute { boot.accept 0x20000000#32 with
      replies := boot.replies ++ List.replicate 2 ⟨4, readReg (boot.accept 0x20000000#32) .status⟩ } = .next u :=
  ⟨test_admitted, rfl, _, rfl⟩

end Sys2Proof.Tests
end

section
/-! SUPPORT. What one step of the machine can do, said once (70_reset R312): which input acts, and the state that each
input leads to. The statements about every step are derived from `step_next`. -/

namespace Sys2Proof.Machine

variable {s t : State} {i : Input}

/-! ## The acting input -/

/-- The input that acts in a step: the first pending one, or the Engine's turn (R312, R350). -/
def State.nextInput (s : State) : Input := s.inputs.headD .engine

/-- The state in which the acting input acts: without that input. -/
def State.consume (s : State) : State := { s with inputs := s.inputs.tail }

/-- A step under an admitted configuration is the act of the acting input. -/
theorem step_eq (h : admitted s.cfg = true) : step s = act s.consume s.nextInput := by
  obtain ⟨_, _, _, _, _, _, _, _, inputs, _, _⟩ := s
  cases inputs <;> exact if_pos h

/-- A step that answers a next state is under an admitted configuration (R152). -/
theorem admitted_of_step_next (h : step s = .next t) : admitted s.cfg = true := by
  unfold step at h
  split at h
  · assumption
  · cases h

/-- The acting input of a non-empty list is its first. -/
theorem nextInput_cons {rest : List Input} (h : s.inputs = i :: rest) : s.nextInput = i := by
  simp [State.nextInput, h]

/-- What acts, but for the Engine's turn, stood first in the list. -/
theorem inputs_of_nextInput (h : s.nextInput = i) (hi : i ≠ .engine) : ∃ rest, s.inputs = i :: rest := by
  unfold State.nextInput at h
  cases hs : s.inputs with
  | nil => exact absurd (by simpa [hs] using h.symm) hi
  | cons j rest => exact ⟨rest, by simpa [hs] using h⟩

/-- The state in which the first of a list of inputs acts. -/
theorem consume_cons {rest : List Input} (h : s.inputs = i :: rest) : s.consume = { s with inputs := rest } := by
  simp [State.consume, h]

/-! ## The acts -/

/-- What an act that answers a next state does: one case for each input, and three for the Engine's turn (R304). -/
inductive Acts (s : State) : Input → State → Prop
  /-- A decoded Host read gives the register's value (R34, R70). -/
  | reads {addr width off : Nat} (hoff : windowOffset s.cfg addr width = some off) :
    Acts s (.hostRead addr width) { s with replies := s.replies ++ [⟨off, readReg s (HostReg.atOffset off)⟩] }
  /-- A decoded Host write writes the register (R34, R70). -/
  | writes {addr width off : Nat} (w : Word) (hoff : windowOffset s.cfg addr width = some off) :
    Acts s (.hostWrite addr width w) (writeReg s (HostReg.atOffset off) w)
  /-- The Engine takes no step in IDLE (R304). -/
  | idles (hp : s.phase = .idle) : Acts s .engine s
  /-- The latched word completes with an error, and nothing but STATUS changes (R301, R303). -/
  | raises {l : Latch} (c : Option Instr) (e : CmdError) (hp : s.phase = .busy) (hl : s.latch = some l) :
    Acts s .engine (s.retire c (.error e))
  /-- The latched command completes with ERR 0 (R304). -/
  | finishes {l : Latch} {c : Instr} {u : State} (hp : s.phase = .busy) (hl : s.latch = some l)
      (hc : decode l.word = .ok c) (hu : RuleDoes c l.args s u) :
    Acts s .engine (u.retire (some c) .ok)
  /-- A reset in IDLE (R330). -/
  | resets (hp : s.phase = .idle) : Acts s .reset (resetState s)
  /-- An ExtDevWrite in IDLE stores one byte (R343). -/
  | pokes {b : Bank} {o : Offset} (v : Byte) (hp : s.phase = .idle) (hb : s.cfg.banks.contains b = true) :
    Acts s (.extDevWrite b o v) (s.onBus fun bus => bus.poke b o v)

/-- `Execute` in BUSY answers a next state only by a completion (R301, R303, R304). -/
theorem execute_next (hp : s.phase = .busy) (h : execute s = .next t) : Acts s .engine t := by
  unfold execute at h
  split at h
  · cases h
  · rename_i l hl
    split at h
    · rename_i c hc
      obtain ⟨l', hl', ⟨e, rfl⟩ | ⟨u, rfl, hu⟩⟩ := exec_next h
      · exact .raises _ e hp hl
      · obtain rfl : l' = l := Option.some.inj (hl'.symm.trans hl)
        exact .finishes hp hl hc hu
    · obtain ⟨u, hu, -⟩ | ⟨e, -, rfl⟩ := complete_next h
      · cases hu
      · exact .raises _ e hp hl

theorem hostRead_next {addr width : Nat} (h : hostRead s addr width = .next t) : Acts s (.hostRead addr width) t := by
  unfold hostRead at h
  split at h
  · cases h; exact .reads ‹_›
  · cases h

theorem hostWrite_next {addr width : Nat} {w : Word} (h : hostWrite s addr width w = .next t) :
    Acts s (.hostWrite addr width w) t := by
  unfold hostWrite at h
  split at h
  · cases h; exact .writes w ‹_›
  · cases h

theorem engineTurn_next (h : engineTurn s = .next t) : Acts s .engine t := by
  unfold engineTurn at h
  split at h
  · exact execute_next ‹_› h
  · cases h; exact .idles ‹_›

theorem resetAct_next (h : resetAct s = .next t) : Acts s .reset t := by
  unfold resetAct at h
  split at h
  · cases h; exact .resets ‹_›
  · cases h

theorem extDevWrite_next {b : Bank} {o : Offset} {v : Byte} (h : extDevWrite s b o v = .next t) :
    Acts s (.extDevWrite b o v) t := by
  unfold extDevWrite at h
  split at h
  · cases h
  · split at h
    · cases h; exact .pokes v ‹_› ‹_›
    · cases h

/-- An act answers a next state only as `Acts` says. -/
theorem act_next (h : act s i = .next t) : Acts s i t := by
  cases i with
  | hostRead addr width => exact hostRead_next h
  | hostWrite addr width w => exact hostWrite_next h
  | engine => exact engineTurn_next h
  | reset => exact resetAct_next h
  | extDevWrite b o v => exact extDevWrite_next h

/-- A step answers a next state only as its acting input does. -/
theorem step_next (h : step s = .next t) : Acts s.consume s.nextInput t :=
  act_next (step_eq (admitted_of_step_next h) ▸ h)

/-! ## A register write -/

section WriteReg

variable (s : State) (r : HostReg) (w : Word)

/-- What a register write leaves alone (R33, R34, R37, R39): all but CMD, DONE, OVR, the arguments, the latch and the
phase. -/
theorem writeReg_frame : writeReg s r w =
    { s with
      hr :=
        { s.hr with
          cmd := (writeReg s r w).hr.cmd
          done := (writeReg s r w).hr.done
          ovr := (writeReg s r w).hr.ovr
          args := (writeReg s r w).hr.args }
      latch := (writeReg s r w).latch
      phase := (writeReg s r w).phase } := by
  cases r with
  | cmd =>
    simp only [writeReg, writeCmd]
    split <;> rfl
  | _ => rfl

@[simp] theorem writeReg_cfg : (writeReg s r w).cfg = s.cfg := by rw [writeReg_frame]
@[simp] theorem writeReg_gen : (writeReg s r w).gen = s.gen := by rw [writeReg_frame]
@[simp] theorem writeReg_scale : (writeReg s r w).scale = s.scale := by rw [writeReg_frame]
@[simp] theorem writeReg_path : (writeReg s r w).path = s.path := by rw [writeReg_frame]
@[simp] theorem writeReg_bus : (writeReg s r w).bus = s.bus := by rw [writeReg_frame]
@[simp] theorem writeReg_inputs : (writeReg s r w).inputs = s.inputs := by rw [writeReg_frame]
@[simp] theorem writeReg_err : (writeReg s r w).hr.err = s.hr.err := by rw [writeReg_frame]
@[simp] theorem writeReg_pll : (writeReg s r w).hr.pll = s.hr.pll := by rw [writeReg_frame]
@[simp] theorem writeReg_fifo : (writeReg s r w).hr.fifo = s.hr.fifo := by rw [writeReg_frame]

end WriteReg

/-- A write of a register other than CMD and STATUS changes the arguments alone (R34, R35). -/
theorem writeReg_arg {r : HostReg} (s : State) (w : Word) (hc : r ≠ .cmd) (hs : r ≠ .status) :
    writeReg s r w = { s with hr := { s.hr with args := writeArg s.hr.args r w } } := by
  cases r with
  | cmd => exact absurd rfl hc
  | status => exact absurd rfl hs
  | _ => rfl

/-! ## What every act leaves alone, and who changes the rest -/

/-- No act changes the configuration (R30). -/
theorem Acts.cfg_eq (h : Acts s i t) : t.cfg = s.cfg := by
  cases h with
  | writes w hoff => exact writeReg_cfg ..
  | finishes hp hl hc hu =>
    obtain ⟨⟨hcfg, -⟩, -⟩ := hu
    exact hcfg
  | _ => rfl

/-- Every act but an ExtDevWrite tells in the trace what it does on the device (R52, R73, R74). -/
theorem Acts.busRuns (h : Acts s i t) (hi : ∀ b o v, i ≠ .extDevWrite b o v) : BusRuns s.bus t.bus := by
  cases h with
  | writes w hoff =>
    rw [writeReg_bus]
    exact busRuns_closed.refl _
  | finishes hp hl hc hu =>
    obtain ⟨-, hbus, -⟩ := hu
    exact hbus _ busRuns_closed
  | @pokes b o v hp hb => exact absurd rfl (hi b o v)
  | _ => exact busRuns_closed.refl _

/-- A bound generation stays until a reset (R47). -/
theorem Acts.gen_bound {p : Pipe} {g : Nat} (h : Acts s i t) (hi : i ≠ .reset) (hg : s.gen.get p = some g) :
    t.gen.get p = some g := by
  cases h with
  | writes w hoff => rwa [writeReg_gen]
  | finishes hp hl hc hu =>
    obtain ⟨-, -, hgen | ⟨q, g', -, hfree, -, -, hgen⟩, -⟩ := hu
    · rwa [State.retire_gen, hgen]
    · have hpq : p ≠ q := by
        rintro rfl
        rw [hg] at hfree
        cases hfree
      rwa [State.retire_gen, hgen, get_set, if_neg hpq]
  | resets hp => exact absurd rfl hi
  | _ => exact hg

/-- Only a successful INIT of a pipe binds it, to the generation that the latched chip id resolves to (R47, R160). -/
theorem Acts.gen_unbound {p : Pipe} {g : Nat} (h : Acts s i t) (hs : s.gen.get p = none) (ht : t.gen.get p = some g) :
    ∃ l, s.phase = .busy ∧ s.latch = some l ∧ decode l.word = .ok (.init p) ∧ t.hr.err = .ok ∧
      s.cfg.resolveChip l.args.chipId = some g := by
  cases h with
  | writes w hoff => rw [writeReg_gen, hs] at ht; cases ht
  | @finishes l c u hp hl hc hu =>
    obtain ⟨-, -, hgen | ⟨q, g', rfl, -, hres, -, hgen⟩, -⟩ := hu
    · rw [State.retire_gen, hgen, hs] at ht; cases ht
    · rw [State.retire_gen, hgen, get_set] at ht
      split at ht
      · rename_i hpq
        cases ht
        exact ⟨l, hp, hl, hpq ▸ hc, rfl, hres⟩
      · rw [hs] at ht; cases ht
  | resets hp => cases p <;> cases ht
  | _ => exact absurd (hs.symm.trans ht) (by simp)

/-- Only a reset, SETPATH or a downscaling PROGSCALE moves the path mirror (R49, R251). -/
theorem Acts.path_moved (h : Acts s i t) (hm : t.path ≠ s.path) : (i = .reset ∧ t.path = .unknown) ∨
    (∃ l c, s.phase = .busy ∧ s.latch = some l ∧ decode l.word = .ok c ∧ t.hr.err = .ok ∧
      ((∃ v, c = .setpath v ∧ t.path = mirrorOf v) ∨
        (c = .progscale .shrink ∧ isDownscale (scalingOf .shrink (srcSize l.args) (dstSize l.args)) = true ∧
          t.path = .dst))) := by
  cases h with
  | writes w hoff => exact absurd (writeReg_path ..) hm
  | @finishes l c u hp hl hc hu =>
    obtain ⟨-, -, -, -, hsame | hmoved⟩ := hu
    · exact absurd hsame hm
    · exact .inr ⟨l, c, hp, hl, hc, rfl, hmoved⟩
  | resets hp => exact .inl ⟨rfl, rfl⟩
  | _ => exact absurd rfl hm

/-- A Host access or an ExtDevWrite changes no result register, no mirror, no ERR and no event (R45). -/
theorem Acts.keepsResults (h : Acts s i t) (he : i ≠ .engine) (hr : i ≠ .reset) :
    SameResults s t ∧ t.hr.err = s.hr.err ∧ t.bus.trace = s.bus.trace ∧ t.inputs = s.inputs := by
  cases h with
  | reads hoff => exact ⟨⟨⟨rfl, rfl⟩, rfl, rfl, rfl⟩, rfl, rfl, rfl⟩
  | writes w hoff => simp [SameResults, SameHostResults]
  | idles hp => exact absurd rfl he
  | raises c e hp hl => exact absurd rfl he
  | finishes hp hl hc hu => exact absurd rfl he
  | resets hp => exact absurd rfl hr
  | pokes v hp hb => exact ⟨⟨⟨rfl, rfl⟩, rfl, rfl, rfl⟩, rfl, rfl, rfl⟩

end Sys2Proof.Machine
end

section
/-! SUPPORT. What every act keeps of the machine's invariant, clause by clause, and the statements about every step that
need it. -/

namespace Sys2Proof.Machine

variable {s t : State} {i : Input}

/-! ## Device memory -/

/-- Every act keeps the device memory in canonical form. -/
theorem Acts.dev_wf (h : Acts s i t) (hs : Memory.wf s.bus.dev) : Memory.wf t.bus.dev := by
  cases h with
  | writes w hoff => rwa [writeReg_bus]
  | finishes hp hl hc hu =>
    obtain ⟨-, hbus, -⟩ := hu
    exact hbus _ devWf_closed hs
  | pokes v hp hb => exact Memory.write_wf _ _ hs
  | _ => exact hs

/-! ## The bound generations -/

theorem gensOk_congr (hg : t.gen = s.gen) (hc : t.cfg = s.cfg) (h : s.gensOk) : t.gensOk := by
  unfold State.gensOk at *
  rwa [hg, hc]

theorem gensOk_of_unbound (h : s.gen = ⟨none, none⟩) : s.gensOk := by
  unfold State.gensOk
  rw [h]
  exact ⟨fun p g hp => (by cases p <;> cases hp), fun _ _ hg => (by cases hg)⟩

/-- Binding a pipe to a member of `Gen` that the other pipe shares keeps the generations right (R160). -/
theorem gensOk_bindGen {p : Pipe} {g : Nat} (hs : s.gensOk) (hg : g < s.cfg.gens.length)
    (ho : ∀ g', s.gen.get p.other = some g' → g' = g) : (s.bindGen p g).gensOk := by
  obtain ⟨hmem, -⟩ := hs
  refine ⟨fun q g' hq => ?_, fun g₁ g₂ h₁ h₂ => ?_⟩
  · rw [State.bindGen_gen, get_set] at hq
    split at hq
    · cases hq; exact hg
    · exact hmem q g' hq
  · cases p with
    | p0 => cases h₁; exact (ho g₂ h₂).symm
    | p1 => cases h₂; exact ho g₁ h₁

/-- Every act keeps the bound generations right (R47, R160). -/
theorem Acts.gensOk (h : Acts s i t) (ha : admitted s.cfg = true) (hs : s.gensOk) : t.gensOk := by
  cases h with
  | writes w hoff => exact gensOk_congr (writeReg_gen ..) (writeReg_cfg ..) hs
  | finishes hp hl hc hu =>
    obtain ⟨⟨hcfg, -⟩, -, hgen | ⟨p, g, -, -, hres, hoth, hgen⟩, -⟩ := hu
    · exact gensOk_congr hgen hcfg hs
    · exact gensOk_congr (s := s.bindGen p g) hgen hcfg (gensOk_bindGen hs (resolveChip_lt ha hres) hoth)
  | resets hp => exact gensOk_of_unbound rfl
  | _ => exact hs

/-! ## The scaling mirror -/

/-- A number below 2^32 and its 32-bit register are 0 together. -/
theorem ofNat32_ne_zero_iff {n : Nat} (h : n < 2 ^ 32) : BitVec.ofNat 32 n ≠ 0 ↔ n ≠ 0 := by
  rw [ne_eq, ← BitVec.toNat_inj, BitVec.toNat_ofNat, Nat.mod_eq_of_lt h]
  rfl

/-- The mode flags of a scaling go with its factors (R245, R247, R248). -/
theorem scalingOf_ok (sel : ScaleSel) {src : Size} (dst : Size) (hh : src.h < 65536) (hv : src.v < 65536) :
    (scalingOf sel src dst).ok := by
  have hfac := ofNat32_ne_zero_iff (axisFactor_lt sel (n := hSteps) dst.h (by decide) hh)
  have vfac := ofNat32_ne_zero_iff (axisFactor_lt sel (n := vSteps) dst.v (by decide) hv)
  refine ⟨?oneType, ?horizontal, ?vertical, ?bufshare⟩
  case oneType => cases sel <;> simp [scalingOf]
  case horizontal => cases sel <;> simpa [scalingOf, hFactor] using hfac.symm
  case vertical => cases sel <;> simpa [scalingOf, vFactor] using vfac.symm
  case bufshare => simp +contextual [scalingOf, bufshareFlag]

theorem reset_scale_ok : ScalingState.reset.ok := by
  unfold ScalingState.ok
  decide

/-- Every act keeps the mode flags right (R247, R248). -/
theorem Acts.scale_ok (h : Acts s i t) (hs : s.scale.ok) : t.scale.ok := by
  cases h with
  | writes w hoff => rwa [writeReg_scale]
  | @finishes l _ u hp hl hc hu =>
    obtain ⟨-, -, -, hsc | ⟨sel, hsc⟩, -⟩ := hu
    · exact hsc ▸ hs
    · rw [State.retire_scale, hsc]
      exact scalingOf_ok sel _ l.args.sT.hdisplay.isLt l.args.sT.vdisplay.isLt
  | resets hp => exact reset_scale_ok
  | _ => exact hs

/-! ## The latch in BUSY -/

theorem busyOk_of_idle (h : s.phase = .idle) : s.busyOk := fun hb => by
  rw [h] at hb
  cases hb

/-- A register write keeps the latch and DONE right in BUSY (R36, R37, R39). -/
theorem writeReg_busyOk (hs : s.busyOk) (r : HostReg) (w : Word) : (writeReg s r w).busyOk := by
  cases r with
  | cmd =>
    simp only [writeReg, writeCmd]
    split
    · exact fun _ => ⟨rfl, _, rfl, rfl⟩
    · exact hs
  | status =>
    intro hb
    obtain ⟨hdone, hl⟩ := hs hb
    exact ⟨by simp [writeReg, writeStatus, hdone], hl⟩
  | _ => exact hs

/-- Every act keeps the latch and DONE right in BUSY (R36, R37). -/
theorem Acts.busyOk (h : Acts s i t) (hs : s.busyOk) : t.busyOk := by
  cases h with
  | writes w hoff => exact writeReg_busyOk hs _ w
  | raises c e hp hl => exact busyOk_of_idle rfl
  | finishes hp hl hc hu => exact busyOk_of_idle rfl
  | resets hp => exact busyOk_of_idle rfl
  | _ => exact hs

/-! ## The invariant -/

theorem consume_inv (h : s.Inv) : s.consume.Inv := h

/-- Every act keeps the invariant. -/
theorem Acts.inv (h : Acts s i t) (hs : s.Inv) : t.Inv := by
  obtain ⟨hadm, hdev, hgen, hscale, hbusy⟩ := hs
  exact ⟨h.cfg_eq ▸ hadm, h.dev_wf hdev, h.gensOk hadm hgen, h.scale_ok hscale, h.busyOk hbusy⟩

/-- Settles O7: each act keeps each clause of the invariant. -/
theorem stepKeepsInvariant : Obligations.StepKeepsInvariant := by
  intro s t hs h
  exact (step_next h).inv (consume_inv hs)

/-- Settles O8: at reset nothing is bound, the mirrors are clear and the Engine is IDLE. -/
theorem resetHasInvariant : Obligations.ResetHasInvariant :=
  ⟨by decide, Memory.nil_wf, gensOk_of_unbound rfl, reset_scale_ok, busyOk_of_idle rfl⟩

/-- Settles O10, act by act. -/
theorem configurationNeverChanges : Obligations.ConfigurationNeverChanges := by
  intro s t h
  exact (step_next h).cfg_eq

/-! ## Results, mirrors and events -/

/-- Settles O12: every bus primitive appends the event that tells what it did. -/
theorem traceTellsDeviceSpace : Obligations.TraceTellsDeviceSpace := by
  intro s t h hext
  have hne : ∀ b o v, s.nextInput ≠ .extDevWrite b o v := fun b o v hi =>
    have ⟨rest, hrest⟩ := inputs_of_nextInput hi (by simp)
    hext b o v rest hrest
  exact (step_next h).busRuns hne

/-- Settles O19: only what a finished command does to `gen` counts, and that is INIT's binding of a free pipe. -/
theorem generationBoundOnceByInit : Obligations.GenerationBoundOnceByInit := by
  intro s t p g h hreset
  have hne : s.nextInput ≠ .reset := fun hi =>
    have ⟨rest, hrest⟩ := inputs_of_nextInput hi (by simp)
    hreset rest hrest
  exact ⟨(step_next h).gen_bound hne, (step_next h).gen_unbound⟩

/-- Settles O20: only a reset or a finished command moves the mirror, and the command as its rule says. -/
theorem pathMovesOnlyByScalerCommands : Obligations.PathMovesOnlyByScalerCommands := by
  intro s t h hpath
  rcases (step_next h).path_moved hpath with ⟨hi, ht⟩ | hcmd
  · obtain ⟨rest, hrest⟩ := inputs_of_nextInput hi (by simp)
    exact .inl ⟨rest, hrest, ht⟩
  · exact .inr hcmd

/-- Settles O21: a Host access or an ExtDevWrite acts on the registers or on one device byte. -/
theorem resultsChangeOnlyAtCompletion : Obligations.ResultsChangeOnlyAtCompletion := by
  intro s t i rest hin hengine hreset h
  have hact := step_next h
  rw [nextInput_cons hin, consume_cons hin] at hact
  exact hact.keepsResults hengine hreset

end Sys2Proof.Machine
end

section
/-! SUPPORT. Under the invariant every command answers a next state: the model's own stops (log 10, 16) need an empty
latch or a lookup that admission excludes (41_generation R152). -/

namespace Sys2Proof.Machine

variable {s : State} {l : Latch} {i : Instr} {rule : ArgRegs → Run}

/-! ## Rules that do not fault -/

/-- A rule's outcome that is no stop of the model's own: success, or an error of R300. -/
def NoFault (r : Run) : Prop := ∀ f, r ≠ .error (.fault f)

theorem noFault_ok (u : State) : NoFault (.ok u) := fun _ h => by cases h

theorem noFault_raise (e : CmdError) : NoFault (raise e) := fun _ h => by cases h

theorem noFault_ite {p : Prop} [Decidable p] {a b : Run} (ha : NoFault a) (hb : NoFault b) :
    NoFault (if p then a else b) := by
  split
  · exact ha
  · exact hb

/-- The tables of a bound generation exist (R152), so a rule under the NotInitialized check faults only by itself. -/
theorem noFault_withTables {p : Pipe} {rule : GenTables → Run} (ha : admitted s.cfg = true) (hs : s.gensOk)
    (h : ∀ t, genOk s.cfg t = true → NoFault (rule t)) : NoFault (withTables s p rule) := by
  obtain ⟨hmem, -⟩ := hs
  cases hg : s.gen.get p with
  | none =>
    rw [withTables_unbound hg]
    exact noFault_raise _
  | some g =>
    have ht := List.getElem?_eq_getElem (hmem p g hg)
    rw [withTables_bound hg ht]
    exact h _ (admitted_gen ha ht)

/-! ## The PLL search -/

/-- The scan answers the best index so far or an index that it scans (R192). -/
theorem scanFrom_lt (t : Nat) (es : List PllEntry) :
    ∀ i best err, best < i + es.length → scanFrom t i best err es < i + es.length := by
  induction es with
  | nil => exact fun i best err h => h
  | cons e es ih =>
    intro i best err h
    simp only [List.length_cons] at h ⊢
    unfold scanFrom
    split
    · have := ih (i + 1) i (pllError e t) (by omega)
      omega
    · have := ih (i + 1) best err (by omega)
      omega

/-- The search in a non-empty table answers an index of the table (R192). -/
theorem pllSearch_lt (t : Nat) {es : List PllEntry} (h : es ≠ []) : pllSearch t es < es.length := by
  cases es with
  | nil => exact absurd rfl h
  | cons e es =>
    have := scanFrom_lt t es 1 0 (pllError e t) (by omega)
    simp only [pllSearch, List.length_cons]
    omega

/-! ## Every command answers -/

/-- Every command runs a rule of its own on the latched arguments (R304). -/
theorem exec_eq_runCommand (i : Instr) (s : State) : ∃ rule, exec i s = runCommand i s rule := by
  unfold exec
  cases i <;> exact ⟨_, rfl⟩

/-- A command on an empty latch stops (log 10). -/
theorem runCommand_empty (h : s.latch = none) : runCommand i s rule = .fault .emptyLatch := by
  simp [runCommand, h]

/-- A command whose rule does not fault answers a next state (R304). -/
theorem runCommand_answers (hl : s.latch = some l) (h : NoFault (rule l.args)) :
    ∃ t, runCommand i s rule = .next t := by
  match hr : rule l.args with
  | .ok u => exact ⟨_, runCommand_ok hl hr⟩
  | .error (.raise e) => exact ⟨_, runCommand_raise hl hr⟩
  | .error (.fault f) => exact absurd hr (h f)

/-- Every command on a full latch answers a next state, under an admitted configuration with members of it bound. -/
theorem exec_answers (i : Instr) (ha : admitted s.cfg = true) (hs : s.gensOk) (hl : s.latch = some l) :
    ∃ t, exec i s = .next t := by
  cases i with
  | init p =>
    unfold exec execInit
    refine runCommand_answers hl ?_
    split
    · exact noFault_raise _
    · split
      · exact noFault_raise _
      · split
        · exact noFault_ite (noFault_ok _) (noFault_raise _)
        · exact noFault_ok _
  | wrlit p imm =>
    unfold exec execWrlit
    refine runCommand_answers hl (noFault_withTables ha hs fun t _ => ?_)
    split
    · exact noFault_raise _
    · exact noFault_ok _
  | wrval p imm =>
    unfold exec execWrval
    refine runCommand_answers hl ?_
    split
    · exact noFault_raise _
    · exact noFault_withTables ha hs fun t _ => noFault_ok _
  | progtim p sel =>
    unfold exec execProgtim
    exact runCommand_answers hl <| noFault_ite (noFault_raise _) <| noFault_withTables ha hs fun t _ =>
      noFault_ite (noFault_raise _) (noFault_ok _)
  | synpll p =>
    unfold exec execSynpll
    refine runCommand_answers hl (noFault_withTables ha hs fun t ht => ?_)
    split
    · exact noFault_raise _
    · rename_i c hc
      obtain ⟨hne, -⟩ := genOk_pll ht hc
      simp only [List.getElem?_eq_getElem (pllSearch_lt (targetHz l.args) hne)]
      exact noFault_ok _
  | tunefifo p =>
    unfold exec execTunefifo
    refine runCommand_answers hl (noFault_withTables ha hs fun t _ => ?_)
    split
    · exact noFault_raise _
    · exact noFault_ok _
  | compscale sel =>
    unfold exec execCompscale
    exact runCommand_answers hl <| noFault_withTables ha hs fun t _ => noFault_ite (noFault_raise _) (noFault_ok _)
  | setpath v =>
    unfold exec execSetpath
    exact runCommand_answers hl <| noFault_withTables ha hs fun t _ => noFault_ok _
  | progscale sel =>
    unfold exec execProgscale
    exact runCommand_answers hl <| noFault_withTables ha hs fun t _ =>
      noFault_ite (noFault_raise _) (noFault_ite (noFault_raise _) (noFault_ok _))

/-- Under the invariant the Engine's turn answers a next state (R304). -/
theorem engineTurn_answers (hs : s.Inv) : ∃ t, engineTurn s = .next t := by
  obtain ⟨ha, -, hg, -, hb⟩ := hs
  cases hp : s.phase with
  | idle => exact ⟨s, by simp [engineTurn, hp]⟩
  | busy =>
    obtain ⟨-, l, hl, -⟩ := hb hp
    simp only [engineTurn, hp, execute, hl]
    split
    · exact exec_answers _ ha hg hl
    · exact ⟨_, rfl⟩

/-- A stop of a step that the invariant excludes: the model's own lookups, and an unadmitted configuration. -/
def InternalStop (o : Host.Outcome State Fault Refusal) : Prop :=
  o = .fault .emptyLatch ∨ o = .fault .unadmittedTable ∨ o = .refused .cfgNotAdmitted

/-- Under the invariant no act is an internal stop. -/
theorem act_not_internalStop (hs : s.Inv) (i : Input) : ¬ InternalStop (act s i) := by
  cases i with
  | hostRead addr width => simp only [act, hostRead]; split <;> simp [InternalStop]
  | hostWrite addr width w => simp only [act, hostWrite]; split <;> simp [InternalStop]
  | engine =>
    obtain ⟨t, ht⟩ := engineTurn_answers hs
    simp [act, ht, InternalStop]
  | reset => simp only [act, resetAct]; split <;> simp [InternalStop]
  | extDevWrite b o v =>
    simp only [act, extDevWrite]
    split
    · simp [InternalStop]
    · split <;> simp [InternalStop]

/-- Settles O9: the Engine's turn answers, and no other act looks up the latch or a table. -/
theorem invariantExcludesInternalStops : Obligations.InvariantExcludesInternalStops := by
  intro s hs
  have h := act_not_internalStop (consume_inv hs) s.nextInput
  rw [← step_eq hs.1] at h
  simpa [InternalStop] using h

/-- Settles O13: every command first looks at the latch. -/
theorem emptyLatchStops : Obligations.EmptyLatchStops := by
  intro i s h
  obtain ⟨rule, hrule⟩ := exec_eq_runCommand i s
  rw [hrule, runCommand_empty h]

end Sys2Proof.Machine
end

section
/-! SUPPORT. The host window (10_state R33 to R44): its map, the fields of STATUS, and what each write stores; and the
statements about one Host access. -/

namespace Sys2Proof.Machine

variable {s : State} {rest : List Input}

/-! ## The map -/

theorem mem_map_of_ne_reserved {r : HostReg} (h : r ≠ .reserved) : r ∈ HostReg.map := by
  cases r with
  | reserved => exact absurd rfl h
  | dT k => cases k <;> decide
  | sT k => cases k <;> decide
  | gen p => cases p <;> decide
  | fifo j => cases j <;> decide
  | _ => decide

/-- A register stands at its offset (R33). -/
theorem atOffset_offset {r : HostReg} (h : r ∈ HostReg.map) : HostReg.atOffset r.offset = r := by
  have hlt := List.idxOf_lt_length_of_mem h
  simp [HostReg.atOffset, HostReg.offset, List.getElem?_eq_getElem hlt]

/-- The registers end below 0xD4 (R33). -/
theorem offset_lt {r : HostReg} (h : r ∈ HostReg.map) : r.offset < 0xD4 := by
  have hlt := List.idxOf_lt_length_of_mem h
  have hlen : HostReg.map.length = 53 := rfl
  unfold HostReg.offset
  omega

/-- Every offset from 0xD4 on is reserved (R33). -/
theorem atOffset_reserved {off : Nat} (h : 0xD4 ≤ off) : HostReg.atOffset off = .reserved := by
  have hlen : HostReg.map.length = 53 := rfl
  unfold HostReg.atOffset
  rw [List.getElem?_eq_none (by omega)]
  rfl

/-- Settles O49: the register at its offset by its place in the list, the offsets by evaluation. -/
theorem windowMap : Obligations.WindowMap := by
  refine ⟨fun r hr => ?_, fun off h => atOffset_reserved h, by decide, by decide, by decide⟩
  have hmem := mem_map_of_ne_reserved hr
  exact ⟨atOffset_offset hmem, Nat.mul_mod_right 4 _, offset_lt hmem⟩

/-! ## Steps on a Host access -/

/-- Under an admitted configuration the first pending input acts. -/
theorem step_cons {i : Input} (ha : admitted s.cfg = true) (h : s.inputs = i :: rest) :
    step s = act { s with inputs := rest } i := by
  rw [step_eq ha, nextInput_cons h, consume_cons h]

/-- A step on a Host read of a decoded offset (R34, R70). -/
theorem step_hostRead {off : Nat} (ha : admitted s.cfg = true) (h4 : off % 4 = 0) (hlt : off < 0x100)
    (h : s.inputs = .hostRead (s.cfg.hostBase + off) 4 :: rest) :
    step s = .next { s with
      inputs := rest
      replies := s.replies ++ [⟨off, readReg { s with inputs := rest } (HostReg.atOffset off)⟩] } := by
  simp [step_cons ha h, act, hostRead, windowOffset_base _ h4 hlt]

/-- A step on a Host write of a decoded offset (R34, R70). -/
theorem step_hostWrite {off : Nat} {w : Word} (ha : admitted s.cfg = true) (h4 : off % 4 = 0) (hlt : off < 0x100)
    (h : s.inputs = .hostWrite (s.cfg.hostBase + off) 4 w :: rest) :
    step s = .next (writeReg { s with inputs := rest } (HostReg.atOffset off) w) := by
  simp [step_cons ha h, act, hostWrite, windowOffset_base _ h4 hlt]

/-- No register shows the pending inputs (R33). -/
theorem readReg_inputs (s : State) (r : HostReg) (is : List Input) :
    readReg { s with inputs := is } r = readReg s r := by
  cases r <;> rfl

/-- Settles O53: a decoded read only appends a reply. -/
theorem hostReadHasNoSideEffect : Obligations.HostReadHasNoSideEffect := by
  intro s off rest ha h4 hlt hin
  refine ⟨_, step_hostRead ha h4 hlt hin, readReg_inputs .., fun hr => ?_⟩
  rw [hr]
  rfl

/-! ## STATUS -/

@[simp] theorem statusWord_done (s : State) : (statusWord s)[1] = s.hr.done := by
  rw [← BitVec.getLsbD_eq_getElem, statusWord, append_flag_succ, append_flag_zero]

@[simp] theorem statusWord_ovr (s : State) : (statusWord s)[2] = s.hr.ovr := by
  rw [← BitVec.getLsbD_eq_getElem, statusWord, append_flag_succ, append_flag_succ, append_flag_zero]

/-- Bit 3 of STATUS is 0 (R38). -/
theorem statusWord_bit3 (s : State) : (statusWord s).getLsbD 3 = false := by
  rw [statusWord, append_flag_succ, append_flag_succ, append_flag_succ]
  exact append_flag_zero _ false

/-- From bit 4 on, STATUS holds ERR and 0 bits (R38). -/
theorem statusWord_high (s : State) (i : Nat) :
    (statusWord s).getLsbD (i + 4) = if i < 4 then s.hr.err.code.getLsbD i else false := by
  rw [statusWord, append_flag_succ, append_flag_succ, append_flag_succ]
  refine (append_flag_succ _ false i).trans ?_
  rw [BitVec.getLsbD_append]
  simp

/-- ERR is bits [7:4] of STATUS (R38). -/
theorem statusWord_err (s : State) : (statusWord s).extractLsb' 4 4 = s.hr.err.code := by
  refine BitVec.eq_of_getLsbD_eq fun j hj => ?_
  rw [BitVec.getLsbD_extractLsb', Nat.add_comm 4 j, statusWord_high]
  simp [hj]

/-- The bits of STATUS above ERR are 0 (R38). -/
theorem statusWord_unused (s : State) : (statusWord s).extractLsb' 8 24 = 0#24 := by
  refine BitVec.eq_of_getLsbD_eq fun j hj => ?_
  rw [BitVec.getLsbD_extractLsb', show 8 + j = (j + 4) + 4 by omega, statusWord_high]
  simp

/-- Settles O52, field by field. -/
theorem statusWordFields : Obligations.StatusWordFields := by
  intro s
  refine ⟨?busy, statusWord_done s, statusWord_ovr s, statusWord_bit3 s, statusWord_err s, statusWord_unused s,
    ?code⟩
  case busy => simp [readReg]
  case code =>
    simp only [readReg, statusWord_err]
    cases s.hr.err with
    | ok => rfl
    | error e => cases e <;> rfl

/-! ## Writes of CMD and STATUS -/

theorem writeCmd_idle (h : s.phase = .idle) (w : Word) : writeCmd s w = s.accept w := by
  simp [writeCmd, h]

theorem writeCmd_busy (h : s.phase = .busy) (w : Word) : writeCmd s w = { s with hr := { s.hr with ovr := true } } := by
  simp [writeCmd, h]

/-- What CMD and STATUS read after a CMD write (R37, R38). -/
theorem readReg_writeCmd (s : State) (w : Word) :
    readReg (writeCmd s w) .cmd = (if s.phase = .idle then w else readReg s .cmd) ∧
      (readReg (writeCmd s w) .status).getLsbD 0 = true ∧
      (s.phase = .idle → (readReg (writeCmd s w) .status).getLsbD 1 = false) ∧
      (s.phase = .busy → (readReg (writeCmd s w) .status).getLsbD 2 = true) := by
  cases hp : s.phase with
  | idle => simp [writeCmd_idle hp, readReg]
  | busy => simp [writeCmd_busy hp, readReg, hp]

/-- Settles O50: acceptance in IDLE, overrun in BUSY. -/
theorem cmdWriteAcceptsOrOverruns : Obligations.CmdWriteAcceptsOrOverruns := by
  intro s w rest ha hin
  have hstep : step s = .next (writeCmd { s with inputs := rest } w) :=
    step_hostWrite (off := 0) ha rfl (by decide) hin
  refine ⟨fun hp => ?_, fun hp => ?_, fun t ht => ?_⟩
  · exact hstep.trans (congrArg _ (writeCmd_idle (s := { s with inputs := rest }) hp w))
  · exact hstep.trans (congrArg _ (writeCmd_busy (s := { s with inputs := rest }) hp w))
  · rw [hstep] at ht
    cases ht
    exact readReg_writeCmd { s with inputs := rest } w

/-- Settles O51: STATUS stands at offset 4, and its write masks two flags. -/
theorem statusWriteClearsSticky : Obligations.StatusWriteClearsSticky := by
  intro s w rest ha hin
  have hstep : step s = .next (writeStatus { s with inputs := rest } w) :=
    step_hostWrite (off := 4) ha rfl (by decide) hin
  exact ⟨_, hstep, rfl, by simp [writeStatus], by simp [writeStatus]⟩

/-! ## Argument registers -/

/-- Storing the low `k` bits of a word and reading them back keeps those bits alone. -/
theorem setWidth_setWidth_eq_and {k : Nat} (w : Word) (hk : k ≤ 32) :
    (w.setWidth k).setWidth 32 = w &&& BitVec.ofNat 32 (2 ^ k - 1) := by
  have hlt : 2 ^ k - 1 < 2 ^ 32 := by
    have := Nat.pow_le_pow_right (n := 2) (by decide) hk
    omega
  refine BitVec.eq_of_toNat_eq ?_
  rw [BitVec.toNat_and, BitVec.toNat_ofNat, Nat.mod_eq_of_lt hlt, Nat.and_two_pow_sub_one_eq_mod,
    BitVec.toNat_setWidth, BitVec.toNat_setWidth]
  exact Nat.mod_eq_of_lt (Nat.lt_of_le_of_lt (Nat.mod_le _ _) w.isLt)

/-- An argument register reads back its used bits of what was written (R34). -/
theorem readReg_writeReg_same {r : HostReg} {m : Word} (hm : usedMask r = some m) (s : State) (w : Word) :
    readReg (writeReg s r w) r = w &&& m := by
  have h16 := setWidth_setWidth_eq_and (k := 16) w (by decide)
  have h8 := setWidth_setWidth_eq_and (k := 8) w (by decide)
  have h1 := setWidth_setWidth_eq_and (k := 1) w (by decide)
  have h32 : w = w &&& 0xFFFFFFFF#32 := (BitVec.and_allOnes (x := w)).symm
  cases r <;> cases hm
  case chipId => exact h16
  case memTier => exact h8
  case depth => exact h8
  case pitch => exact h32
  case value => exact h32
  case dT k => simpa [readReg, writeReg, writeArg, crtc_get_set] using h16
  case dClockKhz => exact h32
  case dRefresh => exact h16
  case dFlags => exact h1
  case sT k => simpa [readReg, writeReg, writeArg, crtc_get_set] using h16

/-- A write of a register changes the argument bits of no other (R34). -/
theorem readReg_writeArg_other {r r' : HostReg} (h : r' ≠ r) (s : State) (w : Word) :
    readReg { s with hr := { s.hr with args := writeArg s.hr.args r w } } r' = readReg s r' := by
  cases r with
  | chipId => cases r' with | chipId => contradiction | _ => rfl
  | memTier => cases r' with | memTier => contradiction | _ => rfl
  | depth => cases r' with | depth => contradiction | _ => rfl
  | pitch => cases r' with | pitch => contradiction | _ => rfl
  | value => cases r' with | value => contradiction | _ => rfl
  | dT k =>
    cases r' with
    | dT j => rw [readReg, writeArg, crtc_get_set, if_neg fun hj => h (congrArg _ hj), readReg]
    | _ => rfl
  | dClockKhz => cases r' with | dClockKhz => contradiction | _ => rfl
  | dRefresh => cases r' with | dRefresh => contradiction | _ => rfl
  | dFlags => cases r' with | dFlags => contradiction | _ => rfl
  | sT k =>
    cases r' with
    | sT j => rw [readReg, writeArg, crtc_get_set, if_neg fun hj => h (congrArg _ hj), readReg]
    | _ => rfl
  | _ => rfl

/-- A write of a register that stores no argument bits leaves the arguments (R34). -/
theorem writeArg_of_usedMask_none {r : HostReg} (h : usedMask r = none) (x : ArgRegs) (w : Word) :
    writeArg x r w = x := by
  cases r with
  | chipId | memTier | depth | pitch | value | dT | dClockKhz | dRefresh | dFlags | sT => cases h
  | _ => rfl

/-- Settles O54: a write that is none of CMD and STATUS changes the arguments alone, and those as `writeArg` says. -/
theorem registerWriteStoresUsedBits : Obligations.RegisterWriteStoresUsedBits := by
  refine ⟨fun s off w rest ha h4 hlt hin => step_hostWrite ha h4 hlt hin, fun s r w => ⟨fun m hm => ?_, ?_⟩⟩
  · have hw : writeReg s r w = { s with hr := { s.hr with args := writeArg s.hr.args r w } } :=
      writeReg_arg s w (by rintro rfl; cases hm) (by rintro rfl; cases hm)
    refine ⟨readReg_writeReg_same hm s w, fun r' hr => ?_, ?_⟩
    · rw [hw, readReg_writeArg_other hr]
    · rw [hw]
  · intro hm hc hs
    rw [writeReg_arg s w hc hs, writeArg_of_usedMask_none hm]

/-! ## The registers after a reset -/

/-- After a reset PATH reads 3 and every other register 0 (R33, R330). -/
theorem readReg_resetState (s : State) (r : HostReg) :
    readReg (resetState s) r = if r = .path then 3#32 else 0#32 := by
  cases r with
  | status => exact (by decide : statusWord (resetState State.reset) = 0#32)
  | scaleMode => exact (by decide : scaleModeWord ScalingState.reset = 0#32)
  | dT k => cases k <;> rfl
  | sT k => cases k <;> rfl
  | gen p => cases p <;> rfl
  | fifo j => cases j <;> rfl
  | _ => rfl

/-- Settles O57: the power-on state is a state right after a reset. -/
theorem resetRegisterValues : Obligations.ResetRegisterValues :=
  ⟨readReg_resetState State.reset, rfl, rfl, fun p => by cases p <;> rfl, rfl, rfl⟩

end Sys2Proof.Machine
end

section
/-! SUPPORT. The accesses that the window does not decode (20_memory R71), and the statement about their refusal. -/

namespace Sys2Proof.Machine

variable {s : State} {addr width : Nat}

/-- The only accesses that decode are 4 bytes wide, at an aligned offset inside the window (R71). -/
theorem windowOffset_eq_some_iff {c : Cfg} {off : Nat} :
    windowOffset c addr width = some off ↔ width = 4 ∧ addr = c.hostBase + off ∧ off % 4 = 0 ∧ off < 0x100 := by
  constructor
  · intro h
    unfold windowOffset at h
    split at h
    next hc =>
      obtain ⟨hw, hle, h4, hlt⟩ := hc
      cases h
      exact ⟨hw, (Nat.add_sub_of_le hle).symm, h4, hlt⟩
    next => cases h
  · rintro ⟨rfl, rfl, h4, hlt⟩
    exact windowOffset_base c h4 hlt

/-- What the window does not decode (R71). -/
theorem windowOffset_eq_none_iff {c : Cfg} :
    windowOffset c addr width = none ↔
      ¬ (width = 4 ∧ ∃ off, addr = c.hostBase + off ∧ off % 4 = 0 ∧ off < 0x100) := by
  simp only [Option.eq_none_iff_forall_ne_some, ne_eq, windowOffset_eq_some_iff, not_exists, not_and]
  exact ⟨fun h hw off => h off hw, fun h off hw => h hw off⟩

/-- A Host access has two outcomes, and the window's decoding decides between them (R70, R71). -/
theorem act_hostAccess (s : State) {i : Input} {v : Word} (hi : i = .hostRead addr width ∨ i = .hostWrite addr width v) :
    ((∃ off, windowOffset s.cfg addr width = some off) ∧ ∃ t, act s i = .next t) ∨
      (windowOffset s.cfg addr width = none ∧ act s i = .refused .hostUndecoded) := by
  cases hw : windowOffset s.cfg addr width with
  | none =>
    right
    obtain rfl | rfl := hi
    · simp [act, hostRead, hw]
    · simp [act, hostWrite, hw]
  | some off =>
    left
    obtain rfl | rfl := hi
    · simp [act, hostRead, hw]
    · simp [act, hostWrite, hw]

/-- Settles O55: the step is the access's act, and an access that decodes is answered. -/
theorem undecodedAccessRefused : Obligations.UndecodedAccessRefused := by
  intro s addr width v rest ha hin
  obtain ⟨i, hs, hi⟩ : ∃ i, s.inputs = i :: rest ∧ (i = .hostRead addr width ∨ i = .hostWrite addr width v) := by
    obtain h | h := hin
    · exact ⟨_, h, .inl rfl⟩
    · exact ⟨_, h, .inr rfl⟩
  rw [step_cons ha hs, ← windowOffset_eq_none_iff]
  obtain ⟨⟨off, hw⟩, t, ht⟩ | ⟨hw, ht⟩ := act_hostAccess { s with inputs := rest } hi
  · exact ⟨by simp [ht, hw], .inl ⟨t, ht⟩⟩
  · exact ⟨iff_of_true ht hw, .inr ht⟩

end Sys2Proof.Machine
end

section
/-! SUPPORT. The encoding of a command (30_encoding R101 to R108): the fields of a word, what the reserved-bit check of
R107 says of them, and that a word decodes to a command exactly when it is the word of that legal command. -/

namespace Sys2Proof

variable {w : Word} {i : Instr} {f : Format}

/-! ## The fields of an assembled word (R101) -/

section Fields

variable (opc : BitVec 8) (b : BitVec 1) (sel : BitVec 4) (imm : BitVec 8)

@[simp] theorem immOf_assemble : immOf (assemble opc b sel imm) = imm := by
  rw [immOf, assemble, BitVec.extractLsb'_append_eq_right]

@[simp] theorem selOf_assemble : selOf (assemble opc b sel imm) = sel.toNat := by
  rw [selOf, assemble, BitVec.extractLsb'_append_eq_of_le (by decide), BitVec.extractLsb'_append_eq_right]

@[simp] theorem opcOf_assemble : opcOf (assemble opc b sel imm) = opc := by
  simp only [opcOf, assemble]
  iterate 4 rw [BitVec.extractLsb'_append_eq_of_le (by decide)]
  exact BitVec.extractLsb'_append_eq_left

@[simp] theorem pipeOf_assemble (p : Pipe) : pipeOf (assemble opc p.bit sel imm) = p := by
  have hbit : (assemble opc p.bit sel imm).getLsbD 16 = p.bit.getLsbD 0 := by
    simp only [assemble]
    iterate 4 rw [BitVec.getLsbD_append]
    rfl
  rw [pipeOf, hbit]
  cases p <;> rfl

end Fields

/-- A word is its six fields side by side (R101). -/
theorem fields_append (w : Word) : opcOf w ++ w.extractLsb' 17 7 ++ w.extractLsb' 16 1 ++ w.extractLsb' 12 4 ++
    w.extractLsb' 8 4 ++ immOf w = w := by
  simp only [opcOf, immOf]
  iterate 5 rw [BitVec.extractLsb'_append_extractLsb'_eq_extractLsb' (by rfl)]
  exact BitVec.extractLsb'_eq_self

/-- The pipe that bit 16 names has that bit (R103). -/
theorem bit_pipeOf (w : Word) : (pipeOf w).bit = w.extractLsb' 16 1 := by
  refine BitVec.eq_of_getLsbD_eq fun j hj => ?_
  obtain rfl : j = 0 := by omega
  rw [BitVec.getLsbD_extractLsb']
  cases h : w.getLsbD 16 <;> simp only [pipeOf, h] <;> rfl

/-! ## SEL of each command that has one (R105) -/

theorem TimingSel.ofSel_eq_some_iff {n : Nat} {sel : TimingSel} : TimingSel.ofSel n = some sel ↔ n = sel.sel.toNat := by
  refine ⟨fun h => ?_, fun h => by cases sel <;> cases h <;> rfl⟩
  unfold TimingSel.ofSel at h
  split at h <;> cases h <;> rfl

theorem ScaleSel.ofSel_eq_some_iff {n : Nat} {sel : ScaleSel} : ScaleSel.ofSel n = some sel ↔ n = sel.sel.toNat := by
  refine ⟨fun h => ?_, fun h => by cases sel <;> cases h <;> rfl⟩
  unfold ScaleSel.ofSel at h
  split at h <;> cases h <;> rfl

theorem PathSel.ofSel_eq_some_iff {n : Nat} {v : PathSel} : PathSel.ofSel n = some v ↔ n = v.sel.toNat := by
  refine ⟨fun h => ?_, fun h => by cases v <;> cases h <;> rfl⟩
  unfold PathSel.ofSel at h
  split at h <;> cases h <;> rfl

/-- A SEL operand is read exactly when the command has that value (R105). -/
theorem orBadSel_eq_ok_iff {α : Type} {o : Option α} {g : α → Instr} :
    orBadSel o g = .ok i ↔ ∃ a, o = some a ∧ g a = i := by
  cases o <;> simp [orBadSel]

/-! ## The reserved-bit check (R102, R107) -/

/-- A field below OPC that a format's mask covers is 0 in every word that the format admits. -/
theorem field_eq_zero_of_admits {lo n : Nat} (h : f.admits w = true) (hlo : lo + n ≤ 24)
    (hm : f.mask.extractLsb' lo n = BitVec.allOnes n) : w.extractLsb' lo n = 0#n := by
  have heq : w &&& f.mask = (opcOf w).setWidth 32 <<< 24 := by simpa [Format.admits] using h
  have hopc : ((opcOf w).setWidth 32 <<< 24).extractLsb' lo n = 0#n := by
    refine BitVec.eq_of_getLsbD_eq fun j hj => ?_
    have hlt : lo + j < 24 := by omega
    simp [hlt]
  calc w.extractLsb' lo n
    _ = w.extractLsb' lo n &&& f.mask.extractLsb' lo n := by rw [hm, BitVec.and_allOnes]
    _ = 0#n := by rw [← BitVec.extractLsb'_and, heq, hopc]

/-- An admitted word is assembled from its fields: no format has a bit outside OPC, PIPE, SEL and IMM (R102). -/
theorem assemble_of_admits (h : f.admits w = true) :
    assemble (opcOf w) (pipeOf w).bit (w.extractLsb' 8 4) (immOf w) = w := by
  have h17 : w.extractLsb' 17 7 = 0#7 := field_eq_zero_of_admits h (by decide) (by cases f <;> rfl)
  have h12 : w.extractLsb' 12 4 = 0#4 := field_eq_zero_of_admits h (by decide) (by cases f <;> rfl)
  rw [assemble, bit_pipeOf, ← h17, ← h12, fields_append]

/-- FP and FPI have no SEL (R102). -/
theorem sel_eq_zero_of_admits (h : f.admits w = true) (hf : f = .FP ∨ f = .FPI) : w.extractLsb' 8 4 = 0#4 :=
  field_eq_zero_of_admits h (by decide) (by obtain rfl | rfl := hf <;> rfl)

/-- Only FPI has an IMM (R102). -/
theorem imm_eq_zero_of_admits (h : f.admits w = true) (hf : f = .FP ∨ f = .FPS ∨ f = .FS) : immOf w = 0#8 :=
  field_eq_zero_of_admits h (by decide) (by obtain rfl | rfl | rfl := hf <;> rfl)

/-- FS has no PIPE (R102). -/
theorem pipe_eq_zero_of_admits (h : Format.FS.admits w = true) : (pipeOf w).bit = 0#1 := by
  rw [bit_pipeOf]
  exact field_eq_zero_of_admits h (by decide) rfl

/-! ## Decoding is the inverse of encoding (R107, R108) -/

/-- The operands of a command are what PIPE, SEL and IMM of a word name (R103, R105). -/
def Instr.OperandsIn (w : Word) : Instr → Prop
  | .init p => pipeOf w = p
  | .wrlit p imm => pipeOf w = p ∧ immOf w = imm
  | .wrval p imm => pipeOf w = p ∧ immOf w = imm
  | .progtim p sel => pipeOf w = p ∧ selOf w = sel.sel.toNat
  | .synpll p => pipeOf w = p
  | .tunefifo p => pipeOf w = p
  | .compscale sel => selOf w = sel.sel.toNat
  | .setpath v => selOf w = v.sel.toNat
  | .progscale sel => selOf w = sel.sel.toNat

/-- The operands of a command stand in its word. -/
theorem operandsIn_encode (i : Instr) : i.OperandsIn (encode i) := by
  cases i <;> simp [Instr.OperandsIn, encode]

theorem opcOf_encode (i : Instr) : opcOf (encode i) = i.opc := by
  cases i <;> exact opcOf_assemble ..

/-- The word of a command passes the reserved-bit check of its format (R107). -/
theorem admits_encode (i : Instr) : i.format.admits (encode i) = true := by
  have hrow : Laws.TableRow.Statement i := by
    cases i with
    | init p => exact Laws.TableRow.init p
    | wrlit p imm => exact Laws.TableRow.wrlit p imm
    | wrval p imm => exact Laws.TableRow.wrval p imm
    | progtim p sel => exact Laws.TableRow.progtim p sel
    | synpll p => exact Laws.TableRow.synpll p
    | tunefifo p => exact Laws.TableRow.tunefifo p
    | compscale sel => exact Laws.TableRow.compscale sel
    | setpath v => exact Laws.TableRow.setpath v
    | progscale sel => exact Laws.TableRow.progscale sel
  rw [Format.admits, opcOf_encode, beq_iff_eq]
  exact hrow

/-- A word that a command's format admits, with the command's OPC and operands, is the command's word. -/
theorem encode_eq_of_fields (hopc : opcOf w = i.opc) (hadm : i.format.admits w = true) (hops : i.OperandsIn w) :
    encode i = w := by
  have hw := assemble_of_admits hadm
  have hsel {v : BitVec 4} (h : selOf w = v.toNat) : w.extractLsb' 8 4 = v := BitVec.eq_of_toNat_eq h
  rw [hopc] at hw
  cases i with
  | init p | synpll p | tunefifo p =>
    have hs := sel_eq_zero_of_admits hadm (.inl rfl)
    have hi := imm_eq_zero_of_admits hadm (.inl rfl)
    rwa [hops, hs, hi] at hw
  | wrlit p imm | wrval p imm =>
    obtain ⟨hp, hi⟩ := hops
    have hs := sel_eq_zero_of_admits hadm (.inr rfl)
    rwa [hp, hs, hi] at hw
  | progtim p sel =>
    obtain ⟨hp, hs⟩ := hops
    have hi := imm_eq_zero_of_admits hadm (.inr (.inl rfl))
    rwa [hp, hsel hs, hi] at hw
  | compscale v | setpath v | progscale v =>
    have hp := pipe_eq_zero_of_admits hadm
    have hi := imm_eq_zero_of_admits hadm (.inr (.inr rfl))
    rwa [hp, hsel hops, hi] at hw

/-- Past the reserved-bit check a word decodes only to the legal command of its OPC with its operands (R105, R106). -/
theorem fields_of_decodeFields (h : decodeFields w = .ok i) : opcOf w = i.opc ∧ i.OperandsIn w ∧ i.wf = true := by
  have hopc {c : BitVec 8} (hc : (opcOf w).toNat = c.toNat) : opcOf w = c := BitVec.eq_of_toNat_eq hc
  unfold decodeFields at h
  split at h
  next hc => cases h; exact ⟨hopc hc, rfl, rfl⟩
  next hc => cases h; exact ⟨hopc hc, ⟨rfl, rfl⟩, rfl⟩
  next hc =>
    split at h
    next himm => cases h; exact ⟨hopc hc, ⟨rfl, rfl⟩, decide_eq_true himm⟩
    next => cases h
  next hc =>
    obtain ⟨sel, hsel, rfl⟩ := orBadSel_eq_ok_iff.mp h
    exact ⟨hopc hc, ⟨rfl, TimingSel.ofSel_eq_some_iff.mp hsel⟩, rfl⟩
  next hc => cases h; exact ⟨hopc hc, rfl, rfl⟩
  next hc => cases h; exact ⟨hopc hc, rfl, rfl⟩
  next hc =>
    obtain ⟨sel, hsel, rfl⟩ := orBadSel_eq_ok_iff.mp h
    exact ⟨hopc hc, ScaleSel.ofSel_eq_some_iff.mp hsel, rfl⟩
  next hc =>
    obtain ⟨v, hv, rfl⟩ := orBadSel_eq_ok_iff.mp h
    exact ⟨hopc hc, PathSel.ofSel_eq_some_iff.mp hv, rfl⟩
  next hc =>
    obtain ⟨sel, hsel, rfl⟩ := orBadSel_eq_ok_iff.mp h
    exact ⟨hopc hc, ScaleSel.ofSel_eq_some_iff.mp hsel, rfl⟩
  next => cases h

/-- Past the reserved-bit check the OPC and the operands of a legal command decode to it (R105, R106). -/
theorem decodeFields_of_fields (hopc : opcOf w = i.opc) (hops : i.OperandsIn w) (hwf : i.wf = true) :
    decodeFields w = .ok i := by
  unfold decodeFields
  rw [hopc]
  cases i with
  | init p | synpll p | tunefifo p =>
    obtain rfl : pipeOf w = p := hops
    rfl
  | wrlit p imm =>
    obtain ⟨rfl, rfl⟩ := hops
    rfl
  | wrval p imm =>
    obtain ⟨rfl, rfl⟩ := hops
    exact if_pos (of_decide_eq_true hwf)
  | progtim p sel =>
    obtain ⟨rfl, hsel⟩ := hops
    exact orBadSel_eq_ok_iff.mpr ⟨sel, TimingSel.ofSel_eq_some_iff.mpr hsel, rfl⟩
  | compscale sel | progscale sel =>
    exact orBadSel_eq_ok_iff.mpr ⟨sel, ScaleSel.ofSel_eq_some_iff.mpr hops, rfl⟩
  | setpath v => exact orBadSel_eq_ok_iff.mpr ⟨v, PathSel.ofSel_eq_some_iff.mpr hops, rfl⟩

theorem formatOf_opc (i : Instr) : formatOf i.opc = some i.format := by
  cases i <;> rfl

/-- A word decodes to a command exactly when it is the word of that command and the command is legal (R107, R108). -/
theorem decode_eq_ok_iff : decode w = .ok i ↔ encode i = w ∧ i.wf = true := by
  constructor
  · intro h
    unfold decode at h
    split at h
    · cases h
    next f hf =>
      split at h
      next hadm =>
        obtain ⟨hopc, hops, hwf⟩ := fields_of_decodeFields h
        obtain rfl : i.format = f := Option.some.inj (by rw [← formatOf_opc, ← hopc, hf])
        exact ⟨encode_eq_of_fields hopc hadm hops, hwf⟩
      next => cases h
  · rintro ⟨rfl, hwf⟩
    have hfields := decodeFields_of_fields (opcOf_encode i) (operandsIn_encode i) hwf
    simp [decode, opcOf_encode, formatOf_opc, admits_encode, hfields]

/-- Settles O2: one direction of `decode_eq_ok_iff`. -/
theorem decodeEncodeRoundTrip : Obligations.DecodeEncodeRoundTrip :=
  fun _ hwf => decode_eq_ok_iff.mpr ⟨rfl, hwf⟩

/-- Settles O3: the other direction of `decode_eq_ok_iff`. -/
theorem decodedWordIsItsEncoding : Obligations.DecodedWordIsItsEncoding :=
  fun _ _ h => decode_eq_ok_iff.mp h

/-! ## The words of R112 -/

/-- Settles O1: by the round trip the text and the word of each legal command are left, by evaluation. -/
theorem workedEncodingsDecode : Obligations.WorkedEncodingsDecode := by
  simp only [Obligations.WorkedEncodingsDecode, decode_eq_ok_iff]
  decide

end Sys2Proof
end

section
/-! SUPPORT. Host programs (30_encoding R110, R111): what a poll reads, any number of polls in BUSY, and an issue from the
CMD write to the poll that ends its loop. -/

namespace Sys2Proof.Machine

variable {s u : State} {a : HostAct} {rest : List HostAct} {r r' : HostRun}

/-! ## Turns -/

/-- A Host's turn whose access is answered (R111, R312). -/
theorem takeTurn_host {t : State} (h : stepOn (a.input s.cfg.hostBase) s = .next t) :
    takeTurn ⟨s, a :: rest⟩ .host = .next ⟨t, if a.repeats t then a :: rest else rest⟩ := by
  simp [takeTurn, h]

theorem takeTurns_cons {t : Turn} {ts : List Turn} (h : takeTurn r t = .next r') :
    takeTurns (t :: ts) r = takeTurns ts r' := by
  simp [takeTurns, h]

/-! ## The turns of an issue -/

/-- The reply that a read of STATUS gives in a state (R38, R111). -/
def statusReply (s : State) : Reply := ⟨4, readReg s .status⟩

/-- BUSY is bit 0 of what STATUS reads as (R38). -/
theorem readReg_status_busy (s : State) : (readReg s .status).getLsbD 0 = (s.phase == .busy) := by
  simp [readReg]

/-- STATUS does not show the replies (R38). -/
theorem statusReply_replies (s : State) (rs : List Reply) : statusReply { s with replies := rs } = statusReply s := rfl

/-- One turn of a `waitidle` loop: a read of STATUS, again exactly in BUSY (R111). -/
theorem takeTurn_poll (ha : admitted s.cfg = true) :
    takeTurn ⟨s, .pollIdle :: rest⟩ .host = .next ⟨{ s with replies := s.replies ++ [statusReply s] },
      if s.phase = .busy then .pollIdle :: rest else rest⟩ := by
  have hread : stepOn (HostAct.pollIdle.input s.cfg.hostBase) s =
      .next { s with replies := s.replies ++ [statusReply s] } := stepOn_hostRead ha rfl (by decide)
  have hrepeats : HostAct.pollIdle.repeats { s with replies := s.replies ++ [statusReply s] } = (s.phase == .busy) := by
    simp [HostAct.repeats, statusReply, readReg]
  simpa [hrepeats] using takeTurn_host (rest := rest) hread

/-- A poll in BUSY leaves the loop where it is (R111). -/
theorem takeTurn_poll_busy (ha : admitted s.cfg = true) (hp : s.phase = .busy) :
    takeTurn ⟨s, .pollIdle :: rest⟩ .host =
      .next ⟨{ s with replies := s.replies ++ [statusReply s] }, .pollIdle :: rest⟩ := by
  rw [takeTurn_poll ha, if_pos hp]

/-- A poll in IDLE ends the loop (R111). -/
theorem takeTurn_poll_idle (ha : admitted s.cfg = true) (hp : s.phase = .idle) :
    takeTurn ⟨s, .pollIdle :: rest⟩ .host = .next ⟨{ s with replies := s.replies ++ [statusReply s] }, rest⟩ := by
  rw [takeTurn_poll ha, if_neg (by simp [hp])]

/-- In BUSY every poll reads the same STATUS, and the loop stays (R111). -/
theorem takeTurns_polls (n : Nat) (ha : admitted s.cfg = true) (hp : s.phase = .busy) :
    takeTurns (List.replicate n .host) ⟨s, .pollIdle :: rest⟩ =
      .next ⟨{ s with replies := s.replies ++ List.replicate n (statusReply s) }, .pollIdle :: rest⟩ := by
  induction n generalizing s with
  | zero => simp [takeTurns]
  | succ n ih =>
    rw [List.replicate_succ, takeTurns_cons (takeTurn_poll_busy ha hp)]
    refine (ih (s := { s with replies := s.replies ++ [statusReply s] }) ha hp).trans ?_
    simp [statusReply_replies, List.replicate_succ]

/-- The Host's turn at a CMD write in IDLE: the word is accepted (R37, R110). -/
theorem takeTurn_issue (w : Word) (ha : admitted s.cfg = true) (hp : s.phase = .idle) :
    takeTurn ⟨s, issueActs w ++ rest⟩ .host = .next ⟨s.accept w, .pollIdle :: rest⟩ := by
  have hwrite : stepOn ((HostAct.write HostReg.cmd.offset w).input s.cfg.hostBase) s = .next (writeCmd s w) :=
    stepOn_hostWrite ha rfl (by decide)
  rw [writeCmd_idle hp] at hwrite
  exact takeTurn_host hwrite

/-- The Engine's turn in BUSY executes the latched word (R304). -/
theorem takeTurn_engine {todo : List HostAct} (ha : admitted s.cfg = true) (hp : s.phase = .busy)
    (h : execute s = .next u) : takeTurn ⟨s, todo⟩ (.other .engine) = .next ⟨u, todo⟩ := by
  simp [takeTurn, stepOn_eq _ ha, act, engineTurn, hp, h]

/-- `Execute` ends in IDLE (R304). -/
theorem execute_next_idle (hp : s.phase = .busy) (h : execute s = .next u) : u.phase = .idle := by
  cases execute_next hp h with
  | idles hidle => exact hidle
  | raises => rfl
  | finishes => rfl

/-- An issue in IDLE, with `n` polls before the Engine's turn, ends with the command executed and one more reply
(R111, R304). -/
theorem takeTurns_issue {w : Word} {n : Nat} (ha : admitted s.cfg = true) (hp : s.phase = .idle)
    (hu : execute { s.accept w with replies := s.replies ++ List.replicate n (statusReply (s.accept w)) } = .next u) :
    takeTurns (.host :: List.replicate n .host ++ [.other .engine, .host]) ⟨s, issueActs w ++ rest⟩ =
      .next ⟨{ u with replies := u.replies ++ [statusReply u] }, rest⟩ := by
  have hcfg : u.cfg = s.cfg := (execute_next rfl hu).cfg_eq
  have hau : admitted u.cfg = true := hcfg ▸ ha
  calc takeTurns (.host :: List.replicate n .host ++ [.other .engine, .host]) ⟨s, issueActs w ++ rest⟩
    _ = takeTurns (List.replicate n .host ++ [.other .engine, .host]) ⟨s.accept w, .pollIdle :: rest⟩ :=
      takeTurns_cons (takeTurn_issue w ha hp)
    _ = takeTurns [.other .engine, .host] ⟨_, .pollIdle :: rest⟩ := takeTurns_append (takeTurns_polls n ha rfl)
    _ = takeTurns [.host] ⟨u, .pollIdle :: rest⟩ := takeTurns_cons (takeTurn_engine ha rfl hu)
    _ = .next ⟨{ u with replies := u.replies ++ [statusReply u] }, rest⟩ :=
      takeTurns_cons (takeTurn_poll_idle hau (execute_next_idle rfl hu))

/-- Settles O60: the expansions by evaluation, the loop by `takeTurn_poll` and the issue by `takeTurns_issue`. -/
theorem issueWaitsForItsCommand : Obligations.IssueWaitsForItsCommand := by
  refine ⟨fun _ => rfl, rfl, fun _ => rfl, rfl, fun _ => rfl, rfl, rfl, fun _ _ => takeTurn_poll, ?_⟩
  intro s u w rest n ha hp hu
  refine ⟨takeTurns_issue ha hp hu, readReg_status_busy _, ?_⟩
  rw [readReg_status_busy, execute_next_idle rfl hu]
  rfl

end Sys2Proof.Machine
end

section
/-! SUPPORT. The writes of the bitfield engine (40_bitfield R130 to R138). WriteValue is WriteLiteral of the value's
slices, so what an RMW sequence does to bits, registers and events is proved once, over literal tables. -/

namespace Sys2Proof.Machine

/-! ## WriteLiteral (R137) -/

/-- A bit that no field of the table has is kept. -/
theorem writeLiteral_getLsbD_outside {b : Bank} {o : Offset} {i : Nat} (hi : i < 8) {t : LitTable} :
    ∀ {bus : Bus}, (∀ c ∈ t, FieldOk c.1) →
      (∀ c ∈ t, c.1.bank = b → c.1.off = o → ¬ (c.1.lo ≤ i ∧ i ≤ c.1.hi)) →
      ((writeLiteral t bus).peek b o).getLsbD i = (bus.peek b o).getLsbD i := by
  induction t with
  | nil => exact fun _ _ => rfl
  | cons c t ih =>
    intro bus hok hout
    rw [List.forall_mem_cons] at hok hout
    obtain ⟨hc, hok⟩ := hok
    obtain ⟨hcout, hout⟩ := hout
    rw [writeLiteral, ih hok hout, devRmw_getLsbD hc _ _ _ hi]
    exact if_neg fun ⟨hb, ho, hbit⟩ => hcout hb ho hbit

/-- In a table without overlaps, a field's bits end as its literal byte has them, by position. -/
theorem writeLiteral_getLsbD_field {t : LitTable} : ∀ {bus : Bus}, (∀ c ∈ t, FieldOk c.1) →
    disjointFields (t.map Prod.fst) = true → ∀ c ∈ t, ∀ i, c.1.lo ≤ i → i ≤ c.1.hi →
      ((writeLiteral t bus).peek c.1.bank c.1.off).getLsbD i = c.2.getLsbD i := by
  induction t with
  | nil => exact fun _ _ _ hc => absurd hc List.not_mem_nil
  | cons d t ih =>
    intro bus hok hdis c hc i hlo hhi
    rw [List.forall_mem_cons] at hok
    obtain ⟨hd, hok⟩ := hok
    obtain ⟨hapart, hdis⟩ := disjointFields_cons hdis
    rcases List.mem_cons.1 hc with rfl | hc
    · have hi : i < 8 := by have := hd.2; omega
      have hout : ∀ e ∈ t, e.1.bank = c.1.bank → e.1.off = c.1.off → ¬ (e.1.lo ≤ i ∧ i ≤ e.1.hi) := by
        intro e he hb ho ⟨helo, hehi⟩
        refine overlaps_false (hapart e.1 (List.mem_map_of_mem he)) hb.symm ho.symm ⟨?_, ?_⟩ <;> omega
      rw [writeLiteral, writeLiteral_getLsbD_outside hi hok hout, devRmw_getLsbD hd _ _ _ hi]
      exact if_pos ⟨rfl, rfl, hlo, hhi⟩
    · exact ih hok hdis c hc i hlo hhi

/-- WriteLiteral issues one RD and one WR a field, in table order, and no other event. -/
theorem writeLiteral_appends (t : LitTable) :
    ∀ bus : Bus, Appends bus (writeLiteral t bus) (listTouches (t.map Prod.fst)) := by
  induction t with
  | nil => exact appends_refl
  | cons c t ih => exact fun bus => (devRmw_appends bus _ _ _ _).trans (ih _)

/-! ## WriteValue as a literal table (R134) -/

/-- The literal table that the loop of R134 writes: each field with its slice of the value. -/
def sliceTable (cur v : Nat) : FieldList → LitTable
  | [] => []
  | f :: fs => (f, f.slice cur v) :: sliceTable (cur + f.width) v fs

theorem writeFrom_eq_writeLiteral (v : Nat) (l : FieldList) :
    ∀ (cur : Nat) (bus : Bus), writeFrom cur v l bus = writeLiteral (sliceTable cur v l) bus := by
  induction l with
  | nil => exact fun _ _ => rfl
  | cons f fs ih => exact fun cur bus => ih _ _

theorem writeValue_eq_writeLiteral (l : FieldList) (v : Nat) (bus : Bus) :
    writeValue l v bus = writeLiteral (sliceTable 0 v l) bus := writeFrom_eq_writeLiteral v l 0 bus

@[simp] theorem sliceTable_fields (v : Nat) (l : FieldList) :
    ∀ cur : Nat, (sliceTable cur v l).map Prod.fst = l := by
  induction l with
  | nil => exact fun _ => rfl
  | cons f fs ih => exact fun cur => congrArg (f :: ·) (ih _)

/-- A property of the fields of a list is one of the rows of its slice table. -/
theorem forall_sliceTable {cur v : Nat} {l : FieldList} {P : RegField → Prop} :
    (∀ c ∈ sliceTable cur v l, P c.1) ↔ ∀ f ∈ l, P f := by
  rw [← List.forall_mem_map, sliceTable_fields]

/-- WriteValue issues one RD and one WR a field, in list order, and no other event (R133, R134). -/
theorem writeValue_appends (l : FieldList) (v : Nat) (bus : Bus) :
    Appends bus (writeValue l v bus) (listTouches l) := by
  have h := writeLiteral_appends (sliceTable 0 v l) bus
  rwa [sliceTable_fields, ← writeValue_eq_writeLiteral] at h

/-- WriteValue keeps every bit that no field of its list has (R138). -/
theorem writeValue_getLsbD_outside {l : FieldList} {v : Nat} {bus : Bus} {b : Bank} {o : Offset} {i : Nat}
    (hok : ∀ f ∈ l, FieldOk f) (hi : i < 8)
    (hout : ∀ f ∈ l, f.bank = b → f.off = o → ¬ (f.lo ≤ i ∧ i ≤ f.hi)) :
    ((writeValue l v bus).peek b o).getLsbD i = (bus.peek b o).getLsbD i := by
  rw [writeValue_eq_writeLiteral]
  exact writeLiteral_getLsbD_outside hi (forall_sliceTable.2 hok) (forall_sliceTable.2 hout)

/-! ## The read-back law (R138) -/

/-- A field that holds its slice of a value reads as the value's bits at the cursor. -/
theorem fieldNow_of_slice {f : RegField} {bus : Bus} {cur v : Nat} (h : FieldOk f)
    (hb : ∀ i, f.lo ≤ i → i ≤ f.hi → (bus.peek f.bank f.off).getLsbD i = (f.slice cur v).getLsbD i) :
    fieldNow f bus = (v >>> cur) % 2 ^ f.width := by
  refine fieldNow_eq bus _ h (Nat.mod_lt _ (by positivity)) fun i hlo hhi => ?_
  have hi : i < 8 := by have := h.2; omega
  have hw : i - f.lo < f.width := by unfold RegField.width; omega
  rw [hb i hlo hhi, slice_getLsbD h cur v hi hlo hhi, Nat.testBit_mod_two_pow, Nat.testBit_shiftRight]
  simp [hw]

/-- After the loop of R134 from a cursor, the list reads as the value's bits from the cursor on. -/
theorem readValue_writeLiteral_sliceTable (v : Nat) {l : FieldList} : ∀ {cur : Nat} {bus : Bus},
    (∀ f ∈ l, FieldOk f) → disjointFields l = true →
      readValue l (writeLiteral (sliceTable cur v l) bus) = (v >>> cur) % 2 ^ fieldsWidth l := by
  induction l with
  | nil => exact fun _ _ => (Nat.mod_one _).symm
  | cons f fs ih =>
    intro cur bus hok hdis
    obtain ⟨hf, hfs⟩ := List.forall_mem_cons.1 hok
    have hhead : fieldNow f (writeLiteral (sliceTable cur v (f :: fs)) bus) = (v >>> cur) % 2 ^ f.width :=
      fieldNow_of_slice hf <| writeLiteral_getLsbD_field (forall_sliceTable.2 hok)
        (by rwa [sliceTable_fields]) (f, f.slice cur v) List.mem_cons_self
    have htail : readValue fs (writeLiteral (sliceTable cur v (f :: fs)) bus) =
        (v >>> (cur + f.width)) % 2 ^ fieldsWidth fs := ih hfs (disjointFields_cons hdis).2
    rw [readValue, hhead, htail, fieldsWidth, pow_add, Nat.mod_mul, Nat.shiftRight_add,
      Nat.shiftRight_eq_div_pow (v >>> cur)]

theorem readValue_writeValue {l : FieldList} {v : Nat} {bus : Bus} (hok : ∀ f ∈ l, FieldOk f)
    (hdis : disjointFields l = true) : readValue l (writeValue l v bus) = v % 2 ^ fieldsWidth l := by
  rw [writeValue_eq_writeLiteral]
  exact readValue_writeLiteral_sliceTable v hok hdis

/-! ## Truncation (R135) -/

/-- A slice does not see the bits of the value above it. -/
theorem slice_mod_two_pow {f : RegField} {cur n : Nat} (v : Nat) (h : cur + f.width ≤ n) :
    f.slice cur (v % 2 ^ n) = f.slice cur v := by
  have hbits : ((v % 2 ^ n) >>> cur) % 2 ^ f.width = (v >>> cur) % 2 ^ f.width := by
    apply Nat.eq_of_testBit_eq
    intro j
    simp only [Nat.testBit_mod_two_pow, Nat.testBit_shiftRight]
    by_cases hj : j < f.width
    · have hn : cur + j < n := by omega
      simp [hn]
    · simp [hj]
  rw [RegField.slice, RegField.slice, hbits]

theorem sliceTable_mod_two_pow (v : Nat) {n : Nat} {l : FieldList} :
    ∀ {cur : Nat}, cur + fieldsWidth l ≤ n → sliceTable cur (v % 2 ^ n) l = sliceTable cur v l := by
  induction l with
  | nil => exact fun _ => rfl
  | cons f fs ih =>
    intro cur h
    rw [fieldsWidth] at h
    rw [sliceTable, sliceTable, slice_mod_two_pow v (by omega), ih (by omega)]

/-! ## The statements -/

theorem length_listTouches (l : FieldList) : (listTouches l).length = 2 * l.length := by
  simp [listTouches, List.length_flatMap, Nat.mul_comm]

theorem Appends.length_trace {s t : Bus} {ts : List Touch} (h : Appends s t ts) :
    t.trace.length = s.trace.length + ts.length := by
  obtain ⟨es, htrace, rfl⟩ := h
  rw [htrace, List.length_append, List.length_map]

/-- Settles O22: `readValue_writeValue`, and the frame of the bits. -/
theorem writeValueReadsBack : Obligations.WriteValueReadsBack := fun _ _ _ hok hdis =>
  ⟨readValue_writeValue hok hdis, fun _ _ _ hi hout => writeValue_getLsbD_outside hok hi hout⟩

/-- Settles O23: the exact touches fix the number of events. -/
theorem writeValueEvents : Obligations.WriteValueEvents := by
  intro l v bus
  have h := writeValue_appends l v bus
  exact ⟨h, length_listTouches l ▸ h.length_trace, writeValue_keepsOutside bus l v⟩

/-- Settles O24: the slice tables of the two values are one, by `sliceTable_mod_two_pow`. -/
theorem highBitsAreDropped : Obligations.HighBitsAreDropped := by
  intro l v bus
  rw [writeValue_eq_writeLiteral, writeValue_eq_writeLiteral, sliceTable_mod_two_pow v (Nat.zero_add _).le]

/-- Settles O25: the bits inside the fields, the bits outside, and the events. -/
theorem writeLiteralPlacesBits : Obligations.WriteLiteralPlacesBits := fun t bus hok hdis =>
  ⟨writeLiteral_getLsbD_field hok hdis, fun _ _ _ hi hout => writeLiteral_getLsbD_outside hi hok hout,
    writeLiteral_appends t bus⟩

end Sys2Proof.Machine
end

section
/-! SUPPORT. WRVAL and WRLIT (40_bitfield R139, R140): the state each of their outcomes leaves, and the statements about
the two commands. -/

namespace Sys2Proof.Machine

variable {s u : State} {p : Pipe} {imm : BitVec 8} {l : Latch} {i : Instr} {t : GenTables}

/-! ## What a completion leaves (R303, R304) -/

/-- A rule that writes nothing but its own results completes as R304 says. -/
theorem finished_retire (v : Verdict) (h : RuleKeeps s u) : Finished i v s (u.retire (some i) v) := by
  obtain ⟨hcfg, hcmd, hovr, hargs, hlatch, hinputs, hreplies, hhistory⟩ := h
  exact ⟨rfl, rfl, rfl, congrArg (· ++ [_]) hhistory, hcfg, hcmd, hovr, hargs, hlatch, hinputs, hreplies⟩

/-- A completion with an error and no update changes nothing but STATUS (R303). -/
theorem rejects_of_retire {e : CmdError} (h : exec i s = .next (s.retire (some i) (.error e))) : Rejects i e s :=
  ⟨_, h, finished_retire _ (ruleKeeps_refl s), ⟨⟨rfl, rfl⟩, rfl, rfl, rfl⟩, rfl⟩

/-- A completion of a rule that only writes the device keeps every result register and mirror (R45). -/
theorem completes_onBus {f : Bus → Bus} (h : exec i s = .next ((s.onBus f).retire (some i) .ok)) :
    ∃ u, exec i s = .next u ∧ Finished i .ok s u ∧ SameResults s u ∧ u.bus = f s.bus :=
  ⟨_, h, finished_retire _ (ruleKeeps_refl s), ⟨⟨rfl, rfl⟩, rfl, rfl, rfl⟩, rfl⟩

/-- The tables of a bound pipe reach the rule (R161). -/
theorem withTables_of_bound {rule : GenTables → Run} (h : s.bound p = some t) : withTables s p rule = rule t := by
  obtain ⟨g, hg, ht⟩ := Option.bind_eq_some_iff.1 h
  exact withTables_bound hg ht

/-! ## The lists of WRVAL (R106) -/

/-- An IMM of the timing range names a timing list. -/
theorem ofImm_timing {k : CrtcParam} (h : CrtcParam.all[imm.toNat]? = some k) :
    ListSel.ofImm imm = some (.timing k) := by
  obtain ⟨hlt, -⟩ := List.getElem?_eq_some_iff.1 h
  rw [ListSel.ofImm, ListSel.all, List.getElem?_append_left (by simpa using hlt), List.getElem?_map, h]
  rfl

/-- An IMM of the FIFO range names a FIFO list. -/
theorem ofImm_fifo {j : FifoParam} (hle : 12 ≤ imm.toNat) (h : FifoParam.all[imm.toNat - 12]? = some j) :
    ListSel.ofImm imm = some (.fifo j) := by
  have hlen : (CrtcParam.all.map ListSel.timing).length = 12 := rfl
  rw [ListSel.ofImm, ListSel.all, List.getElem?_append_right (hlen ▸ hle), List.getElem?_map, hlen, h]
  rfl

/-- An IMM past both ranges names no list. -/
theorem ofImm_none (h : 16 ≤ imm.toNat) : ListSel.ofImm imm = none := List.getElem?_eq_none h

/-! ## WRVAL (R139) -/

theorem exec_wrval_bound {sel : ListSel} (hl : s.latch = some l) (hsel : ListSel.ofImm imm = some sel)
    (hb : s.bound p = some t) : exec (.wrval p imm) s =
      .next ((s.onBus (writeValue (listOf t p sel) l.args.value.toNat)).retire (some (.wrval p imm)) .ok) := by
  unfold exec execWrval
  refine runCommand_ok hl ?_
  simp only [hsel]
  exact withTables_of_bound hb

theorem exec_wrval_noList (hl : s.latch = some l) (hsel : ListSel.ofImm imm = none) :
    exec (.wrval p imm) s = .next (s.retire (some (.wrval p imm)) (.error .illegalCommand)) := by
  unfold exec execWrval
  refine runCommand_raise hl ?_
  simp only [hsel]

/-- What WriteValue does on the bus, clause by clause (R133 to R138). -/
theorem wroteList_writeValue (fs : FieldList) (v : Nat) (bus : Bus) : WroteList fs v bus (writeValue fs v bus) :=
  ⟨rfl, writeValue_appends fs v bus, writeValue_keepsOutside bus fs v, readValue_writeValue⟩

/-- WRVAL on a bound pipe writes VALUE through the list that its IMM names, and changes nothing else. -/
theorem wrval_completes {sel : ListSel} (hl : s.latch = some l) (hsel : ListSel.ofImm imm = some sel)
    (hb : s.bound p = some t) : ∃ u, exec (.wrval p imm) s = .next u ∧ Finished (.wrval p imm) .ok s u ∧
      SameResults s u ∧ WroteList (listOf t p sel) l.args.value.toNat s.bus u.bus := by
  obtain ⟨u, hexec, hfin, hres, hbus⟩ := completes_onBus (exec_wrval_bound hl hsel hb)
  exact ⟨u, hexec, hfin, hres, hbus ▸ wroteList_writeValue _ _ _⟩

/-! ## WRLIT (R140) -/

theorem exec_wrlit_bound {tab : LitTable} (hl : s.latch = some l) (hb : s.bound p = some t)
    (htab : t.lit[imm.toNat]? = some tab) :
    exec (.wrlit p imm) s = .next ((s.onBus (writeLiteral tab)).retire (some (.wrlit p imm)) .ok) := by
  unfold exec execWrlit
  refine runCommand_ok hl ?_
  rw [withTables_of_bound hb]
  simp only [htab]

theorem exec_wrlit_noTable (hl : s.latch = some l) (hb : s.bound p = some t) (htab : t.lit[imm.toNat]? = none) :
    exec (.wrlit p imm) s = .next (s.retire (some (.wrlit p imm)) (.error .illegalCommand)) := by
  unfold exec execWrlit
  refine runCommand_raise hl ?_
  rw [withTables_of_bound hb]
  simp only [htab]

theorem exec_wrlit_unbound (hl : s.latch = some l) (hg : s.gen.get p = none) :
    exec (.wrlit p imm) s = .next (s.retire (some (.wrlit p imm)) (.error .notInitialized)) := by
  unfold exec execWrlit
  exact runCommand_raise hl (withTables_unbound hg)

/-! ## The statements -/

/-- Settles O26: the two ranges of IMM and the IMM past both. -/
theorem wrvalWritesValue : Obligations.WrvalWritesValue := by
  intro s p imm l hl
  refine ⟨?timing, ?fifo, ?noList⟩
  case timing => exact fun t k hb hk => wrval_completes hl (ofImm_timing hk) hb
  case fifo => exact fun t j hb hle hj => wrval_completes hl (ofImm_fifo hle hj) hb
  case noList => exact fun h => rejects_of_retire (exec_wrval_noList hl (ofImm_none h))

/-- Settles O27: the IMM of a table, an IMM past the tables, and the unbound pipe. -/
theorem wrlitWritesTable : Obligations.WrlitWritesTable := by
  intro s p imm l hl
  refine ⟨?table, ?noTable, ?unbound⟩
  case table =>
    intro t tab hb htab
    obtain ⟨u, hexec, hfin, hres, hbus⟩ := completes_onBus (exec_wrlit_bound hl hb htab)
    exact ⟨u, hexec, hfin, hres, hbus, hbus ▸ writeLiteral_appends tab _,
      hbus ▸ writeLiteral_keepsOutside tab _⟩
  case noTable =>
    exact fun t hb hlen => rejects_of_retire (exec_wrlit_noTable hl hb (List.getElem?_eq_none hlen))
  case unbound => exact fun hg => rejects_of_retire (exec_wrlit_unbound hl hg)

end Sys2Proof.Machine
end

section
/-! SUPPORT. INIT and the admission of a configuration (41_generation R152, R160): the state each outcome of INIT leaves,
what GENp then reads, and the statements about them. -/

namespace Sys2Proof.Machine

variable {s : State} {p : Pipe} {l : Latch} {g g' : Nat}

/-- GENp of a bound pipe reads VALID and the index, which fits GIDX (R40, R150). -/
theorem genWord_toNat (h : g < 256) : (genWord (some g)).toNat = 2 ^ 31 + g := by
  have hor : (2 ^ 23) <<< 8 ||| g = (2 ^ 23) <<< 8 + g := (Nat.shiftLeft_add_eq_or_of_lt h _).symm
  simp only [genWord, BitVec.toNat_append, BitVec.toNat_ofNat, Nat.mod_eq_of_lt h]
  exact hor

/-! ## The outcomes of INIT (R160) -/

theorem exec_init_ok (hl : s.latch = some l) (hfree : s.gen.get p = none)
    (hres : s.cfg.resolveChip l.args.chipId = some g) (hoth : ∀ g', s.gen.get p.other = some g' → g' = g) :
    exec (.init p) s = .next ((s.bindGen p g).retire (some (.init p)) .ok) := by
  unfold exec execInit
  refine runCommand_ok hl ?_
  simp only [hfree, hres]
  cases ho : s.gen.get p.other with
  | none => rfl
  | some g' => exact if_pos (hoth g' ho)

theorem exec_init_bound (hl : s.latch = some l) (hg : s.gen.get p = some g) :
    exec (.init p) s = .next (s.retire (some (.init p)) (.error .alreadyInitialized)) := by
  unfold exec execInit
  refine runCommand_raise hl ?_
  simp only [hg]

theorem exec_init_unresolved (hl : s.latch = some l) (hfree : s.gen.get p = none)
    (hres : s.cfg.resolveChip l.args.chipId = none) :
    exec (.init p) s = .next (s.retire (some (.init p)) (.error .unsupportedDevice)) := by
  unfold exec execInit
  refine runCommand_raise hl ?_
  simp only [hfree, hres]

theorem exec_init_otherGen (hl : s.latch = some l) (hfree : s.gen.get p = none)
    (hres : s.cfg.resolveChip l.args.chipId = some g) (ho : s.gen.get p.other = some g') (hne : g' ≠ g) :
    exec (.init p) s = .next (s.retire (some (.init p)) (.error .unsupportedDevice)) := by
  unfold exec execInit
  refine runCommand_raise hl ?_
  simp only [hfree, hres, ho, if_neg hne]

/-! ## The statements -/

/-- Settles O28: INIT updates `gen` alone, and WF11 with the count of R150 makes the index fit GIDX. -/
theorem initBindsGeneration : Obligations.InitBindsGeneration := by
  intro s p l g ha hl hfree hres hoth
  have hlt : g < 256 := (resolveChip_lt ha hres).trans_le (admitted_length ha)
  have hgen : readReg ((s.bindGen p g).retire (some (.init p)) .ok) (.gen p) = genWord (some g) :=
    congrArg genWord (get_set_same s.gen p (some g))
  exact ⟨_, exec_init_ok hl hfree hres hoth, finished_retire _ (ruleKeeps_refl s), rfl, hgen ▸ genWord_toNat hlt,
    ⟨rfl, rfl⟩, rfl, rfl, rfl⟩

/-- Settles O29: the bound pipe, the chip id that resolves to nothing, and the other pipe's other generation. -/
theorem initRejects : Obligations.InitRejects := by
  intro s p l hl
  refine ⟨?bound, ?unresolved, ?otherGen⟩
  case bound => exact fun g hg => rejects_of_retire (exec_init_bound hl hg)
  case unresolved => exact fun hfree hres => rejects_of_retire (exec_init_unresolved hl hfree hres)
  case otherGen =>
    exact fun g g' hfree hres ho hne => rejects_of_retire (exec_init_otherGen hl hfree hres ho hne)

/-- Settles O11: a step first checks the admission of its configuration. -/
theorem unadmittedConfigurationRefused : Obligations.UnadmittedConfigurationRefused := by
  intro s h
  unfold step
  exact if_neg (ne_true_of_eq_false h)

end Sys2Proof.Machine
end

section
/-! SUPPORT. Field lists written one after another (42_timing R174, 44_fifo R223, 45_scaling R249): the events, the
registers, and what each list reads back where no two of the lists share a bit. -/

namespace Sys2Proof.Machine

variable {l : FieldList} {v : Nat} {bus : Bus}

/-- No two fields of a list overlap, in the library's words. -/
theorem disjointFields_iff_pairwise : disjointFields l = true ↔ l.Pairwise fun f g => f.overlaps g = false := by
  induction l with
  | nil => simp [disjointFields]
  | cons f fs ih => simp [disjointFields, ih]

/-- A list reads the same where the bits of its fields are the same. -/
theorem readValue_congr {s t : Bus} (hok : ∀ f ∈ l, FieldOk f)
    (hb : ∀ f ∈ l, ∀ i, f.lo ≤ i → i ≤ f.hi →
      (s.peek f.bank f.off).getLsbD i = (t.peek f.bank f.off).getLsbD i) :
    readValue l s = readValue l t := by
  induction l with
  | nil => rfl
  | cons f fs ih =>
    rw [List.forall_mem_cons] at hok hb
    rw [readValue, readValue, fieldNow_congr hok.1 s t hb.1, ih hok.2 hb.2]

/-- WriteValue keeps what a list reads that shares no bit with the written one (R138). -/
theorem readValue_writeValue_apart {m : FieldList} (hl : ∀ f ∈ l, FieldOk f) (hm : ∀ g ∈ m, FieldOk g)
    (hapart : ∀ f ∈ l, ∀ g ∈ m, f.overlaps g = false) : readValue l (writeValue m v bus) = readValue l bus := by
  refine readValue_congr hl fun f hf i hlo hhi => ?_
  have hi : i < 8 := by have := (hl f hf).2; omega
  refine writeValue_getLsbD_outside hm hi fun g hg hbank hoff ⟨hglo, hghi⟩ => ?_
  exact overlaps_false (hapart f hf g hg) hbank.symm hoff.symm ⟨hlo.trans hghi, hglo.trans hhi⟩

/-- WriteValue of each list with its value, in order. -/
def writeLists : List (FieldList × Nat) → Bus → Bus
  | [], bus => bus
  | (l, v) :: ws, bus => writeLists ws (writeValue l v bus)

variable {ws : List (FieldList × Nat)}

/-- The writes issue the RD and WR of each field of each list, in order, and no other event. -/
theorem writeLists_appends (ws : List (FieldList × Nat)) :
    ∀ bus : Bus, Appends bus (writeLists ws bus) ((ws.map Prod.fst).flatMap listTouches) := by
  induction ws with
  | nil => exact appends_refl
  | cons w ws ih => exact fun bus => (writeValue_appends w.1 w.2 bus).trans (ih _)

/-- The writes change no byte outside the registers of their lists. -/
theorem writeLists_keepsOutside (ws : List (FieldList × Nat)) :
    ∀ bus : Bus, KeepsOutside ((ws.map Prod.fst).flatMap regsOf) bus (writeLists ws bus) := by
  induction ws with
  | nil => exact keepsOutside_refl _
  | cons w ws ih =>
    exact fun bus => ((writeValue_keepsOutside bus w.1 w.2).mono (List.subset_append_left _ _)).trans
      ((ih _).mono (List.subset_append_right _ _))

/-- The writes keep what a list reads that shares no bit with any of theirs. -/
theorem readValue_writeLists_apart (hl : ∀ f ∈ l, FieldOk f) : ∀ {bus : Bus},
    (∀ w ∈ ws, ∀ g ∈ w.1, FieldOk g) → (∀ w ∈ ws, ∀ f ∈ l, ∀ g ∈ w.1, f.overlaps g = false) →
      readValue l (writeLists ws bus) = readValue l bus := by
  induction ws with
  | nil => exact fun _ _ => rfl
  | cons w ws ih =>
    intro bus hok hapart
    rw [List.forall_mem_cons] at hok hapart
    exact (ih hok.2 hapart.2).trans (readValue_writeValue_apart hl hok.1 hapart.1)

/-- Where no two of the lists share a bit, each reads back its value's low bits. -/
theorem readValue_writeLists : ∀ {bus : Bus}, (∀ w ∈ ws, ∀ g ∈ w.1, FieldOk g) →
    disjointFields (ws.map Prod.fst).flatten = true → (l, v) ∈ ws →
      readValue l (writeLists ws bus) = v % 2 ^ fieldsWidth l := by
  induction ws with
  | nil => exact fun _ _ h => absurd h List.not_mem_nil
  | cons w ws ih =>
    intro bus hok hdis hmem
    rw [List.forall_mem_cons] at hok
    rw [disjointFields_iff_pairwise, List.map_cons, List.flatten_cons, List.pairwise_append,
      ← disjointFields_iff_pairwise, ← disjointFields_iff_pairwise] at hdis
    obtain ⟨hhead, htail, hcross⟩ := hdis
    rcases List.mem_cons.1 hmem with rfl | hmem
    · have hapart : ∀ u ∈ ws, ∀ f ∈ l, ∀ g ∈ u.1, f.overlaps g = false := fun u hu f hf g hg =>
        hcross f hf g (List.mem_flatten_of_mem (List.mem_map_of_mem hu) hg)
      calc readValue l (writeLists ws (writeValue l v bus))
        _ = readValue l (writeValue l v bus) := readValue_writeLists_apart hok.1 hok.2 hapart
        _ = v % 2 ^ fieldsWidth l := readValue_writeValue hok.1 hhead
    · exact ih hok.2 htail hmem

end Sys2Proof.Machine
end

section
/-! SUPPORT. PROGTIM and the timing programmer (42_timing R171 to R175): the register value of a parameter, the twelve
writes, the state that each outcome of PROGTIM leaves, and the statements about them. -/

namespace Sys2Proof.Machine

variable {c : Cfg} {s : State} {p : Pipe} {sel : TimingSel} {l : Latch} {t : GenTables} {v : Timing}

/-! ## The register value (R172, R173) -/

/-- The register value is the formula in two's complement (R172). -/
theorem timingReg_cast (e : TimingEntry) (n : Nat) :
    (timingReg e n : Int) = timingFormula e n % ((2 ^ e.list.width : Nat) : Int) :=
  Int.toNat_of_nonneg (Int.emod_nonneg _ (by positivity))

/-- The register value fits its list's declared width. -/
theorem timingReg_lt (e : TimingEntry) (n : Nat) : timingReg e n < 2 ^ e.list.width := by
  have hlt : timingFormula e n % ((2 ^ e.list.width : Nat) : Int) < ((2 ^ e.list.width : Nat) : Int) :=
    Int.emod_lt_of_pos _ (by positivity)
  rw [← timingReg_cast] at hlt
  exact_mod_cast hlt

/-- WF5: the divisors and biases that the document fixes (R173). -/
theorem genOk_documentForms (h : genOk c t = true) :
    (t.timing.primary.htotal.div = 8 ∧ t.timing.primary.htotal.bias = 5) ∧
    (t.timing.primary.vtotal.div = 1 ∧ t.timing.primary.vtotal.bias = 2) ∧
    (t.timing.secondary.htotal.div = 1 ∧ t.timing.secondary.htotal.bias = 1) := by
  simp only [genOk, Bool.and_eq_true] at h
  obtain ⟨⟨⟨⟨⟨⟨-, h5⟩, -⟩, -⟩, -⟩, -⟩, -⟩ := h
  simpa only [wf5, Bool.and_eq_true, decide_eq_true_eq, and_assoc] using h5

/-! ## The twelve writes (R174) -/

theorem crtcParam_mem_all (k : CrtcParam) : k ∈ CrtcParam.all := by cases k <;> decide

/-- The timing list of a parameter with the value that ProgramTiming writes through it (R172, R174). -/
def timingWrite (t : GenTables) (p : Pipe) (v : Timing) (k : CrtcParam) : FieldList × Nat :=
  (((t.timing.get p).get k).list.fields, timingReg ((t.timing.get p).get k) (v.get k))

theorem programParams_eq_writeLists (t : GenTables) (p : Pipe) (v : Timing) (ks : List CrtcParam) :
    ∀ bus : Bus, programParams (t.timing.get p) v ks bus = writeLists (ks.map (timingWrite t p v)) bus := by
  induction ks with
  | nil => exact fun _ => rfl
  | cons k ks ih => exact fun bus => ih _

theorem programTiming_eq_writeLists (t : GenTables) (p : Pipe) (v : Timing) (bus : Bus) :
    programTiming t p v bus = writeLists (CrtcParam.all.map (timingWrite t p v)) bus :=
  programParams_eq_writeLists t p v _ bus

theorem timingWrites_lists (t : GenTables) (p : Pipe) (v : Timing) :
    (CrtcParam.all.map (timingWrite t p v)).map Prod.fst = timingLists t p := List.map_map

/-- ProgramTiming issues the RD and WR of each field of the twelve lists, in the order of R18, and no other event. -/
theorem programTiming_appends (t : GenTables) (p : Pipe) (v : Timing) (bus : Bus) :
    Appends bus (programTiming t p v bus) ((timingLists t p).flatMap listTouches) := by
  rw [programTiming_eq_writeLists, ← timingWrites_lists t p v]
  exact writeLists_appends _ bus

/-- ProgramTiming changes no byte outside the registers of the twelve lists. -/
theorem programTiming_keepsOutside (t : GenTables) (p : Pipe) (v : Timing) (bus : Bus) :
    KeepsOutside ((timingLists t p).flatMap regsOf) bus (programTiming t p v bus) := by
  rw [programTiming_eq_writeLists, ← timingWrites_lists t p v]
  exact writeLists_keepsOutside _ bus

/-- WF1: the fields of a timing list are in bounds. -/
theorem genOk_timingFieldOk (h : genOk c t = true) (p : Pipe) (k : CrtcParam) :
    ∀ f ∈ ((t.timing.get p).get k).list.fields, FieldOk f := by
  refine genOk_fieldOk h _ ?_
  simp only [GenTables.allLists, List.append_assoc]
  exact List.mem_append_left _ (List.mem_map_of_mem (timing_mem t p k))

/-- In an admitted generation whose lists of a pipe share no bit, each list reads back its register value. -/
theorem readValue_programTiming (h : genOk c t = true) (hdis : disjointFields (timingLists t p).flatten = true)
    (k : CrtcParam) (bus : Bus) : readValue ((t.timing.get p).get k).list.fields (programTiming t p v bus) =
      timingReg ((t.timing.get p).get k) (v.get k) := by
  have hok : ∀ w ∈ CrtcParam.all.map (timingWrite t p v), ∀ f ∈ w.1, FieldOk f :=
    List.forall_mem_map.2 fun j _ => genOk_timingFieldOk h p j
  rw [← timingWrites_lists t p v] at hdis
  have hread := readValue_writeLists (bus := bus) hok hdis (List.mem_map_of_mem (crtcParam_mem_all k))
  rwa [← programTiming_eq_writeLists, genOk_timingWidth h, Nat.mod_eq_of_lt (timingReg_lt _ _)] at hread

/-! ## The outcomes of PROGTIM (R171, R175, R302) -/

/-- The guard admits SYNTH exactly at path SRC, and MODE exactly at every other path (R175). -/
theorem pathForbids_iff {path : PathMirror} : pathForbids sel path = true ↔ ¬ (sel = .synth ↔ path = .src) := by
  cases sel <;> simp [pathForbids]

theorem exec_progtim_ok (hl : s.latch = some l) (hb : s.bound p = some t)
    (hsynth : sel = .synth → p = s.cfg.scalerPipe) (hpath : p = s.cfg.scalerPipe → (sel = .synth ↔ s.path = .src)) :
    exec (.progtim p sel) s = .next
      ((s.onBus (programTiming t p (progtimTiming s.cfg l.args sel))).retire (some (.progtim p sel)) .ok) := by
  have hadmits : ¬ (p = s.cfg.scalerPipe ∧ pathForbids sel s.path = true) := fun ⟨hp, hforbids⟩ =>
    pathForbids_iff.1 hforbids (hpath hp)
  unfold exec execProgtim
  refine runCommand_ok hl ?_
  rw [if_neg fun ⟨hsel, hp⟩ => hp (hsynth hsel), withTables_of_bound hb, if_neg hadmits]

theorem exec_progtim_synth_off (hl : s.latch = some l) (hp : p ≠ s.cfg.scalerPipe) :
    exec (.progtim p .synth) s = .next (s.retire (some (.progtim p .synth)) (.error .illegalCommand)) := by
  unfold exec execProgtim
  exact runCommand_raise hl (if_pos ⟨rfl, hp⟩)

theorem exec_progtim_mismatch (hl : s.latch = some l) (hb : s.bound p = some t) (hp : p = s.cfg.scalerPipe)
    (hpath : ¬ (sel = .synth ↔ s.path = .src)) :
    exec (.progtim p sel) s = .next (s.retire (some (.progtim p sel)) (.error .pathMismatch)) := by
  unfold exec execProgtim
  refine runCommand_raise hl ?_
  rw [if_neg fun h => h.2 hp, withTables_of_bound hb, if_pos ⟨hp, pathForbids_iff.2 hpath⟩]

/-! ## The statements -/

/-- Settles O30: the rule writes the device alone, by the twelve writes of `programTiming_eq_writeLists`. -/
theorem progtimLoadsTiming : Obligations.ProgtimLoadsTiming := by
  intro s p sel l t hl hb hsynth hpath
  obtain ⟨u, hexec, hfin, hres, hbus⟩ := completes_onBus (exec_progtim_ok hl hb hsynth hpath)
  exact ⟨u, hexec, hfin, hres, hbus.trans (by cases sel <;> rfl), hbus ▸ programTiming_appends t p _ _,
    hbus ▸ programTiming_keepsOutside t p _ _⟩

/-- Settles O31: SYNTH off the scaler pipe, and the two selectors that the guard forbids on it. -/
theorem progtimPathGuard : Obligations.ProgtimPathGuard := by
  intro s p l hl
  refine ⟨?synthOff, ?modeAtSrc, ?synthNotAtSrc⟩
  case synthOff => exact fun hp => rejects_of_retire (exec_progtim_synth_off hl hp)
  case modeAtSrc =>
    exact fun t hb hp hsrc => rejects_of_retire (exec_progtim_mismatch hl hb hp (by simp [hsrc]))
  case synthNotAtSrc =>
    exact fun t hb hp hsrc => rejects_of_retire (exec_progtim_mismatch hl hb hp (by simp [hsrc]))

/-- Settles O32: each list reads back its register value, which is the formula in two's complement. -/
theorem programTimingReadsBack : Obligations.ProgramTimingReadsBack := by
  intro c t p v bus hg hdis k
  rw [readValue_programTiming hg hdis]
  exact timingReg_cast _ _

/-- Settles O33: WF5 fixes the three divisors and biases. -/
theorem documentTimingFormulas : Obligations.DocumentTimingFormulas := by
  intro c t v hg
  obtain ⟨⟨hdiv0, hbias0⟩, ⟨hdiv1, hbias1⟩, ⟨hdiv2, hbias2⟩⟩ := genOk_documentForms hg
  simp only [timingReg_cast, timingFormula, hdiv0, hbias0, hdiv1, hbias1, hdiv2, hbias2, Nat.div_one, and_self]

end Sys2Proof.Machine
end

section
/-! SUPPORT. The PLL search and the divider word (43_pll R190 to R194): what the scan has found after each entry, and
the fields of a fitting word. -/

namespace Sys2Proof.Machine

variable {t k : Nat} {table pre : List PllEntry} {b e : PllEntry}

/-! ## The search (R192, R198) -/

/-- Entry `e` stands at index `k` and is the best match by the law of R198: no entry is closer to the target, and every
entry of a lower index is farther. -/
structure BestMatch (t : Nat) (table : List PllEntry) (k : Nat) (e : PllEntry) : Prop where
  entry : table[k]? = some e
  le : ∀ f ∈ table, pllError e t ≤ pllError f t
  lt : ∀ (j : Nat) (f : PllEntry), table[j]? = some f → j < k → pllError e t < pllError f t

theorem BestMatch.singleton (t : Nat) (e : PllEntry) : BestMatch t [e] 0 e where
  entry := rfl
  le _ hf := List.mem_singleton.1 hf ▸ le_rfl
  lt _ _ _ hj := absurd hj (Nat.not_lt_zero _)

/-- A next entry that is strictly closer is the best match of the longer table. -/
theorem BestMatch.replace (h : BestMatch t pre k b) (he : pllError e t < pllError b t) :
    BestMatch t (pre ++ [e]) pre.length e where
  entry := List.getElem?_concat_length
  le f hf := by
    rcases List.mem_append.1 hf with hf | hf
    · exact he.le.trans (h.le f hf)
    · exact List.mem_singleton.1 hf ▸ le_rfl
  lt j f hf hj := by
    rw [List.getElem?_append_left hj] at hf
    exact he.trans_le (h.le f (List.mem_of_getElem? hf))

/-- A next entry that is not strictly closer leaves the best match as it is. -/
theorem BestMatch.keep (h : BestMatch t pre k b) (he : ¬ pllError e t < pllError b t) :
    BestMatch t (pre ++ [e]) k b := by
  have hk : k < pre.length := (List.getElem?_eq_some_iff.1 h.entry).1
  refine ⟨(List.getElem?_append_left hk).trans h.entry, fun f hf => ?_, fun j f hf hj => ?_⟩
  · rcases List.mem_append.1 hf with hf | hf
    · exact h.le f hf
    · exact List.mem_singleton.1 hf ▸ not_lt.1 he
  · rw [List.getElem?_append_left (hj.trans hk)] at hf
    exact h.lt j f hf hj

/-- The scan of the entries after `pre`, begun with the best match of `pre`, answers one of the whole table. -/
theorem scanFrom_bestMatch (es : List PllEntry) : ∀ {pre : List PllEntry} {k : Nat} {b : PllEntry},
    BestMatch t pre k b → ∃ e, BestMatch t (pre ++ es) (scanFrom t pre.length k (pllError b t) es) e := by
  induction es with
  | nil => exact fun {pre k b} h => ⟨b, by rwa [List.append_nil]⟩
  | cons e es ih =>
    intro pre k b h
    rw [List.append_cons]
    unfold scanFrom
    split
    · rename_i hcloser
      simpa only [List.length_append, List.length_singleton] using ih (h.replace hcloser)
    · rename_i hfarther
      simpa only [List.length_append, List.length_singleton] using ih (h.keep hfarther)

/-- The search in a non-empty table answers its best match (R192, R198). -/
theorem pllSearch_bestMatch (t : Nat) (h : table ≠ []) : ∃ e, BestMatch t table (pllSearch t table) e := by
  cases table with
  | nil => exact absurd rfl h
  | cons e es => exact scanFrom_bestMatch es (BestMatch.singleton t e)

/-! ## The divider word (R193, R194) -/

/-- Two fields of a word that do not overlap: their or is their sum. -/
theorem or_fields_eq_add {hi lo n : Nat} (h : lo < 2 ^ n) : hi <<< n ||| lo = hi * 2 ^ n + lo := by
  rw [← Nat.shiftLeft_add_eq_or_of_lt h, Nat.shiftLeft_eq]

/-- A high field of `m` bits above a low part of `n` bits makes a word of `m + n` bits. -/
theorem add_fields_lt {hi lo m n : Nat} (hhi : hi < 2 ^ m) (hlo : lo < 2 ^ n) : hi * 2 ^ n + lo < 2 ^ (m + n) := by
  calc hi * 2 ^ n + lo
    _ < hi * 2 ^ n + 2 ^ n := Nat.add_lt_add_left hlo _
    _ = (hi + 1) * 2 ^ n := (Nat.succ_mul hi _).symm
    _ ≤ 2 ^ m * 2 ^ n := Nat.mul_le_mul_right _ hhi
    _ = 2 ^ (m + n) := (pow_add 2 m n).symm

/-- A word of three fields, each above the one before, is their sum and has their widths' bits. -/
theorem threeFields {hi mid lo w m n : Nat} (hhi : hi < 2 ^ w) (hmid : mid < 2 ^ m) (hlo : lo < 2 ^ n) :
    hi <<< (m + n) ||| mid <<< n ||| lo = hi * 2 ^ (m + n) + mid * 2 ^ n + lo ∧
      hi <<< (m + n) ||| mid <<< n ||| lo < 2 ^ (w + (m + n)) := by
  have hlow : mid * 2 ^ n + lo < 2 ^ (m + n) := add_fields_lt hmid hlo
  have hor : hi <<< (m + n) ||| mid <<< n ||| lo = hi * 2 ^ (m + n) + (mid * 2 ^ n + lo) := by
    rw [Nat.or_assoc, or_fields_eq_add hlo, or_fields_eq_add hlow]
  exact ⟨hor.trans (Nat.add_assoc _ _ _).symm, hor ▸ add_fields_lt hhi hlow⟩

/-! ## The statements -/

/-- Settles O36: the scan keeps the best match of the entries it has passed. -/
theorem searchFindsNearestEntry : Obligations.SearchFindsNearestEntry := by
  intro table t hne
  obtain ⟨e, hbest⟩ := pllSearch_bestMatch t hne
  exact ⟨e, hbest.entry, fun j f hf => ⟨hbest.le f (List.mem_of_getElem? hf), hbest.lt j f hf⟩⟩

/-- Settles O37: each encoding's bounds are the widths of its three fields, which stand side by side. -/
theorem dividerWordFieldsApart : Obligations.DividerWordFieldsApart := by
  intro enc e hfits
  cases enc with
  | A =>
    simp only [pllFits, Bool.and_eq_true, decide_eq_true_eq] at hfits
    obtain ⟨⟨hdiv, hshift⟩, hmult⟩ := hfits
    exact threeFields (w := 8) (m := 2) (n := 6) (by omega) (by omega) (by omega)
  | B =>
    simp only [pllFits, Bool.and_eq_true, decide_eq_true_eq] at hfits
    obtain ⟨⟨⟨⟨-, hmult⟩, hshift⟩, -⟩, hdiv⟩ := hfits
    exact threeFields (w := 8) (m := 6) (n := 10) (by omega) (by omega) (by omega)
  | C =>
    simp only [pllFits, Bool.and_eq_true, decide_eq_true_eq] at hfits
    obtain ⟨⟨hmult, hshift⟩, hdiv⟩ := hfits
    exact threeFields (w := 8) (m := 6) (n := 10) (by omega) (by omega) (by omega)

end Sys2Proof.Machine
end

section
/-! SUPPORT. ProgramPLL and SYNPLL (43_pll R195 to R197): the bits, events and registers of the sequence, the state that
each outcome of SYNPLL leaves, and the statements about them. -/

namespace Sys2Proof.Machine

variable {s : State} {p : Pipe} {l : Latch} {t : GenTables} {c : PllCfg} {e : PllEntry}

/-! ## The steps of ProgramPLL (R195, R196) -/

/-- The byte that S1, S2, S4 and S5 of R195 write over the byte `r`. -/
def bitByte (a : BitAddr) (on : Bool) (r : Byte) : Byte :=
  merge r (BitVec.ofNat 8 (1 <<< a.bit)) (BitVec.ofNat 8 ((if on then 1 else 0) <<< a.bit))

theorem setBit_trace (a : BitAddr) (on : Bool) (bus : Bus) : (setBit a on bus).trace =
    bus.trace ++ [.rd a.bank a.off (bus.peek a.bank a.off), .wr a.bank a.off (bitByte a on (bus.peek a.bank a.off))] :=
  devRmw_trace bus a.bank a.off _ _

theorem setBit_keepsOutside (a : BitAddr) (on : Bool) (bus : Bus) :
    KeepsOutside [⟨a.bank, a.off⟩] bus (setBit a on bus) := devRmw_keepsOutside bus a.bank a.off _ _

/-- The RMW of one bit changes that bit alone. -/
theorem bitByte_getLsbD (a : BitAddr) (on : Bool) (r : Byte) {i : Nat} (hi : i < 8) :
    (bitByte a on r).getLsbD i = if i = a.bit then on else r.getLsbD i := by
  have hmask : (BitVec.ofNat 8 (1 <<< a.bit)).getLsbD i = decide (i = a.bit) := by
    simp only [BitVec.getLsbD_ofNat, Nat.one_shiftLeft, Nat.testBit_two_pow, hi, decide_true, Bool.true_and, eq_comm]
  rw [bitByte, merge_getLsbD _ _ _ _ hi, hmask]
  by_cases heq : i = a.bit
  · cases on with
    | true => simpa [heq] using hmask
    | false => simp [heq]
  · simp only [heq, decide_false, Bool.false_eq_true, if_false]

theorem bitByte_getLsbD_self {a : BitAddr} (ha : a.bit ≤ 7) (on : Bool) (r : Byte) :
    (bitByte a on r).getLsbD a.bit = on := by
  rw [bitByte_getLsbD a on r (Nat.lt_succ_of_le ha), if_pos rfl]

theorem bitByte_getLsbD_other (a : BitAddr) (on : Bool) (r : Byte) {i : Nat} (hi : i < 8) (hne : i ≠ a.bit) :
    (bitByte a on r).getLsbD i = r.getLsbD i := by
  rw [bitByte_getLsbD a on r hi, if_neg hne]

/-- An RMW with value 0 clears the mask's bits (S7 of R195). -/
theorem merge_zero (r m : Byte) : merge r m 0x00#8 = r &&& ~~~m := by simp [merge]

/-- Step S3 writes the divider bytes low byte first, one a register, and issues no other event. -/
theorem writeDividers_trace (code : Nat) (rs : List RegAddr) : ∀ (i : Nat) (bus : Bus),
    (writeDividers code i rs bus).trace = bus.trace ++
      (rs.zipIdx i).map fun x => .wr x.1.bank x.1.off (BitVec.ofNat 8 (code / 2 ^ (8 * x.2))) := by
  induction rs with
  | nil => exact fun _ bus => (List.append_nil _).symm
  | cons r rs ih =>
    intro i bus
    rw [writeDividers, ih, devWrite_trace, List.zipIdx_cons, List.map_cons, List.append_assoc,
      Nat.shiftRight_eq_div_pow]
    rfl

theorem writeDividers_keepsOutside (code : Nat) (rs : List RegAddr) : ∀ (i : Nat) (bus : Bus),
    KeepsOutside rs bus (writeDividers code i rs bus) := by
  induction rs with
  | nil => exact fun _ bus => keepsOutside_refl _ bus
  | cons r rs ih =>
    exact fun i bus => ((devWrite_keepsOutside bus _ _ _).mono (by simp)).trans
      ((ih _ _).mono (List.subset_cons_self r rs))

/-! ## ProgramPLL -/

/-- The events of ProgramPLL in order, each written byte from the byte just read (R195, R196). -/
theorem programPll_trace (n : Nat) (code : Nat) (bus : Bus) (hlen : (c.divRegs.get p).length = pllBytes c.enc) :
    ∃ r1 r2 r4 r5 r7 : Byte, (programPll n p code c bus).trace = bus.trace ++
      [.rd c.rst.bank c.rst.off r1, .wr c.rst.bank c.rst.off (bitByte c.rst c.rstOn r1),
       .rd (c.clkEn.get p).bank (c.clkEn.get p).off r2,
       .wr (c.clkEn.get p).bank (c.clkEn.get p).off (bitByte (c.clkEn.get p) (!c.clkOn) r2)] ++
      (c.divRegs.get p).zipIdx.map (fun x => .wr x.1.bank x.1.off (BitVec.ofNat 8 (code / 2 ^ (8 * x.2)))) ++
      [.rd (c.clkEn.get p).bank (c.clkEn.get p).off r4,
       .wr (c.clkEn.get p).bank (c.clkEn.get p).off (bitByte (c.clkEn.get p) c.clkOn r4),
       .rd c.rst.bank c.rst.off r5, .wr c.rst.bank c.rst.off (bitByte c.rst (!c.rstOn) r5), .wait n,
       .rd c.syncPol.bank c.syncPol.off r7, .wr c.syncPol.bank c.syncPol.off (r7 &&& ~~~c.syncMask)] := by
  simp only [programPll, List.take_of_length_le hlen.le, devRmw_trace, merge_zero, wait_trace, setBit_trace,
    writeDividers_trace, List.append_assoc, List.cons_append, List.nil_append]
  exact ⟨_, _, _, _, _, rfl⟩

/-- ProgramPLL changes no byte outside the registers that it names. -/
theorem programPll_keepsOutside (n : Nat) (p : Pipe) (code : Nat) (c : PllCfg) (bus : Bus) :
    KeepsOutside (pllTouched c p) bus (programPll n p code c bus) := by
  have hrst : [⟨c.rst.bank, c.rst.off⟩] ⊆ pllTouched c p := by simp [pllTouched]
  have hclk : [⟨(c.clkEn.get p).bank, (c.clkEn.get p).off⟩] ⊆ pllTouched c p := by simp [pllTouched]
  have hdiv : (c.divRegs.get p).take (pllBytes c.enc) ⊆ pllTouched c p :=
    List.subset_append_of_subset_right _ (List.take_subset _ _)
  have hsync : [c.syncPol] ⊆ pllTouched c p := by simp [pllTouched]
  have h1 := (setBit_keepsOutside c.rst c.rstOn bus).mono hrst
  have h2 := h1.trans ((setBit_keepsOutside (c.clkEn.get p) (!c.clkOn) _).mono hclk)
  have h3 := h2.trans ((writeDividers_keepsOutside code _ 0 _).mono hdiv)
  have h4 := h3.trans ((setBit_keepsOutside (c.clkEn.get p) c.clkOn _).mono hclk)
  have h5 := h4.trans ((setBit_keepsOutside c.rst (!c.rstOn) _).mono hrst)
  exact h5.trans ((devRmw_keepsOutside (Bus.wait _ n) _ _ _ _).mono hsync)

/-! ## The result registers (R41) -/

theorem readReg_pllIndex_toNat (u : State) : (readReg u .pllIndex).toNat = u.hr.pll.index.toNat :=
  BitVec.toNat_setWidth_of_le (by decide)

theorem readReg_pllCode_toNat (u : State) : (readReg u .pllCode).toNat = u.hr.pll.code.toNat :=
  BitVec.toNat_setWidth_of_le (by decide)

theorem readReg_pllFreq_toNat (u : State) : (readReg u .pllFreq).toNat = u.hr.pll.freq.toNat := rfl

/-- The divider word of a fitting entry fits PLL_CODE. -/
theorem pllCode_lt {enc : PllEnc} (h : pllFits enc e = true) : pllCode enc e < 2 ^ 24 := by
  have hbytes : 8 * pllBytes enc ≤ 24 := by cases enc <;> decide
  exact (dividerWordFieldsApart enc e h).2.trans_le (Nat.pow_le_pow_right (by decide) hbytes)

/-- In an admitted generation the result registers hold the search's index, word and frequency exactly (WF6, WF7). -/
theorem pllResult_exact {g : Cfg} {k : Nat} (hok : genOk g t = true) (hc : t.pll = some c)
    (he : c.table[k]? = some e) : (pllResult k c.enc e).index.toNat = k ∧
      (pllResult k c.enc e).code.toNat = pllCode c.enc e ∧ (pllResult k c.enc e).freq.toNat = outputFreq e := by
  obtain ⟨-, hlen, hfreqs, hfits, -⟩ := genOk_pll hok hc
  have hmem := List.mem_of_getElem? he
  have hk : k < 2 ^ 16 := (List.getElem?_eq_some_iff.1 he).1.trans_le hlen
  exact ⟨Nat.mod_eq_of_lt hk, Nat.mod_eq_of_lt (pllCode_lt (hfits e hmem)),
    Nat.mod_eq_of_lt (hfreqs e hmem)⟩

/-! ## The outcomes of SYNPLL (R197) -/

theorem exec_synpll_ok (hl : s.latch = some l) (hb : s.bound p = some t) (hc : t.pll = some c)
    (he : c.table[pllSearch (targetHz l.args) c.table]? = some e) :
    exec (.synpll p) s = .next (((s.onBus (programPll s.cfg.tPllWait p (pllCode c.enc e) c)).setPll
      (pllResult (pllSearch (targetHz l.args) c.table) c.enc e)).retire (some (.synpll p)) .ok) := by
  unfold exec execSynpll
  refine runCommand_ok hl ?_
  rw [withTables_of_bound hb]
  simp only [hc, he]

theorem exec_synpll_noTable (hl : s.latch = some l) (hb : s.bound p = some t) (hc : t.pll = none) :
    exec (.synpll p) s = .next (s.retire (some (.synpll p)) (.error .unsupportedDevice)) := by
  unfold exec execSynpll
  refine runCommand_raise hl ?_
  rw [withTables_of_bound hb]
  simp only [hc]

/-- The tables of a bound pipe pass the checks of an admitted configuration (R152). -/
theorem genOk_of_bound (ha : admitted s.cfg = true) (hb : s.bound p = some t) : genOk s.cfg t = true := by
  obtain ⟨g, -, ht⟩ := Option.bind_eq_some_iff.1 hb
  exact admitted_gen ha ht

/-! ## The statements -/

/-- Settles O35: the events of `programPll_trace`, whose bytes are those of the one-bit and the clearing RMW. -/
theorem pllSequenceOrder : Obligations.PllSequenceOrder := by
  intro n p code c bus hrst hclk hlen
  obtain ⟨r1, r2, r4, r5, r7, htrace⟩ := programPll_trace (p := p) n code bus hlen
  refine ⟨r1, _, r2, _, r4, _, r5, _, r7, _, htrace, bitByte_getLsbD_self hrst _ _, bitByte_getLsbD_self hclk _ _,
    bitByte_getLsbD_self hclk _ _, bitByte_getLsbD_self hrst _ _, ?cleared, ?resetBits, ?clockBits, ?syncBits⟩
  case cleared => rw [BitVec.and_assoc, BitVec.not_and_self]; exact BitVec.and_zero
  case resetBits =>
    exact fun i hi hne => ⟨bitByte_getLsbD_other _ _ _ hi hne, bitByte_getLsbD_other _ _ _ hi hne⟩
  case clockBits =>
    exact fun i hi hne => ⟨bitByte_getLsbD_other _ _ _ hi hne, bitByte_getLsbD_other _ _ _ hi hne⟩
  case syncBits => rw [BitVec.and_assoc, BitVec.and_self]

/-- Settles O34: WF6 makes the searched entry exist, and `pllResult_exact` reads its registers. -/
theorem synpllProgramsSearchedEntry : Obligations.SynpllProgramsSearchedEntry := by
  intro s p l t ha hl hb
  refine ⟨fun c hc => ?searched, fun hc => rejects_of_retire (exec_synpll_noTable hl hb hc)⟩
  case searched =>
    have hok := genOk_of_bound ha hb
    obtain ⟨hne, -, -, -, -⟩ := genOk_pll hok hc
    obtain ⟨e, hbest⟩ := pllSearch_bestMatch (targetHz l.args) hne
    obtain ⟨hindex, hcode, hfreq⟩ := pllResult_exact hok hc hbest.entry
    exact ⟨e, _, hbest.entry, exec_synpll_ok hl hb hc hbest.entry,
      finished_retire _ ⟨rfl, rfl, rfl, rfl, rfl, rfl, rfl, rfl⟩, hindex, hcode, hfreq,
      (readReg_pllIndex_toNat _).trans hindex, (readReg_pllCode_toNat _).trans hcode,
      (readReg_pllFreq_toNat _).trans hfreq, rfl, rfl, rfl, rfl, rfl, programPll_keepsOutside _ _ _ _ _⟩

end Sys2Proof.Machine
end

section
/-! SUPPORT. TUNEFIFO (44_fifo R221 to R226): the tier under its two readings, what an entry of the FIFO table is, the
four writes and the result registers, the state that each outcome of TUNEFIFO leaves, and the statements about them. -/

namespace Sys2Proof.Machine

variable {c : Cfg} {s : State} {p : Pipe} {l : Latch} {t : GenTables} {f : FifoConsts} {k : FifoKey}

/-! ## The tier (R221) -/

/-- The entries up to a bound are the entries below it and those that equal it. -/
theorem countP_le_eq_countP_lt_add_count (h : Nat) (ts : List Nat) :
    ts.countP (fun a => decide (a ≤ h)) = ts.countP (fun a => decide (a < h)) + ts.count h := by
  induction ts with
  | nil => rfl
  | cons a ts ih =>
    simp only [List.countP_cons, List.count_cons, ih, decide_eq_true_eq, beq_iff_eq]
    split_ifs <;> omega

/-- The inclusive reading counts the thresholds that the width equals besides those that it exceeds. -/
theorem tier_true_eq_tier_false_add_count (h : Nat) : tier true h = tier false h + tierThresh.count h :=
  countP_le_eq_countP_lt_add_count h tierThresh

/-- The two readings differ exactly at the thresholds. -/
theorem tier_readings_differ_iff (h : Nat) : tier true h ≠ tier false h ↔ h ∈ tierThresh := by
  rw [tier_true_eq_tier_false_add_count, ne_eq, Nat.add_eq_left, List.count_eq_zero, not_not]

/-- The thresholds rise, so a width that reaches one reaches those before it. -/
theorem tier_true_eq_ite (h : Nat) : tier true h =
    if 1600 ≤ h then 4 else if 1400 ≤ h then 3 else if 1280 ≤ h then 2 else if 1024 ≤ h then 1 else 0 := by
  simp only [tier, tierThresh, List.countP_cons, List.countP_nil, if_true, decide_eq_true_eq]
  split_ifs <;> omega

/-- The thresholds rise, so a width that exceeds one exceeds those before it. -/
theorem tier_false_eq_ite (h : Nat) : tier false h =
    if 1600 < h then 4 else if 1400 < h then 3 else if 1280 < h then 2 else if 1024 < h then 1 else 0 := by
  simp only [tier, tierThresh, List.countP_cons, List.countP_nil, Bool.false_eq_true, if_false, decide_eq_true_eq]
  split_ifs <;> omega

/-! ## The FIFO table (R150, R226) -/

/-- What a key finds stands in the table under that key. -/
theorem fifoAt_mem (h : t.fifoAt k = some f) : (k, f) ∈ t.fifoTable := by
  simp only [GenTables.fifoAt, Option.map_eq_some_iff] at h
  obtain ⟨⟨key, consts⟩, hfind, rfl⟩ := h
  have hkey : key = k := by simpa using List.find?_some hfind
  exact hkey ▸ List.mem_of_find?_eq_some hfind

/-- WF12: the source's entry of `midGen32`, at every memory tier that has one. -/
theorem admitted_sourceFifoEntry {g : Nat} (ha : admitted c = true) (hg : c.midGen32 = some g)
    (ht : c.gens[g]? = some t) {m : BitVec 8} (hf : t.fifoAt ⟨.p0, tier c.tierInclusive 1024, 32#8, m⟩ = some f) :
    sourceFifoEntry f = true := by
  simp only [admitted, Bool.and_eq_true] at ha
  obtain ⟨-, h12⟩ := ha
  simp only [wf12, hg, ht, List.all_eq_true] at h12
  simpa using h12 _ (fifoAt_mem hf)

/-! ## The four writes (R222 to R224) -/

/-- The FIFO list of a constant with the quarter that TUNEFIFO writes through it (R223, R224). -/
def fifoWrite (t : GenTables) (p : Pipe) (f : FifoConsts) (j : FifoParam) : FieldList × Nat :=
  (((t.fifoList.get p).get j).fields, quantize (f.get j))

theorem programFifo_eq_writeLists (t : GenTables) (p : Pipe) (f : FifoConsts) (bus : Bus) :
    programFifo (t.fifoList.get p) f bus = writeLists (FifoParam.all.map (fifoWrite t p f)) bus := rfl

theorem fifoWrites_lists (t : GenTables) (p : Pipe) (f : FifoConsts) :
    (FifoParam.all.map (fifoWrite t p f)).map Prod.fst = fifoListsOf t p := List.map_map

/-- TUNEFIFO issues the RD and WR of each field of the four lists, in the order of R222, and no other event. -/
theorem programFifo_appends (t : GenTables) (p : Pipe) (f : FifoConsts) (bus : Bus) :
    Appends bus (programFifo (t.fifoList.get p) f bus) ((fifoListsOf t p).flatMap listTouches) := by
  rw [programFifo_eq_writeLists, ← fifoWrites_lists t p f]
  exact writeLists_appends _ bus

/-- TUNEFIFO changes no byte outside the registers of the four lists. -/
theorem programFifo_keepsOutside (t : GenTables) (p : Pipe) (f : FifoConsts) (bus : Bus) :
    KeepsOutside ((fifoListsOf t p).flatMap regsOf) bus (programFifo (t.fifoList.get p) f bus) := by
  rw [programFifo_eq_writeLists, ← fifoWrites_lists t p f]
  exact writeLists_keepsOutside _ bus

/-- WF1: the fields of a FIFO list are in bounds. -/
theorem genOk_fifoFieldOk (h : genOk c t = true) (p : Pipe) (j : FifoParam) :
    ∀ f ∈ ((t.fifoList.get p).get j).fields, FieldOk f := by
  refine genOk_fieldOk h _ ?_
  simp only [GenTables.allLists, List.append_assoc]
  exact List.mem_append_right _ (List.mem_append_left _ (List.mem_map_of_mem (fifo_mem t p j)))

/-- In an admitted generation whose FIFO lists of a pipe share no bit, each list reads back its quantized constant. -/
theorem readValue_programFifo (h : genOk c t = true) (hdis : disjointFields (fifoListsOf t p).flatten = true)
    (j : FifoParam) (bus : Bus) : readValue ((t.fifoList.get p).get j).fields (programFifo (t.fifoList.get p) f bus) =
      quantize (f.get j) % 2 ^ ((t.fifoList.get p).get j).width := by
  have hok : ∀ w ∈ FifoParam.all.map (fifoWrite t p f), ∀ g ∈ w.1, FieldOk g :=
    List.forall_mem_map.2 fun i _ => genOk_fifoFieldOk h p i
  rw [← fifoWrites_lists t p f] at hdis
  rw [programFifo_eq_writeLists, ← genOk_fifoWidth h]
  exact readValue_writeLists hok hdis (List.mem_map_of_mem (mem_fifoParam_all j))

/-! ## The result registers (R42) -/

theorem readReg_fifo_toNat (u : State) (j : FifoParam) : (readReg u (.fifo j)).toNat = (u.hr.fifo.get j).toNat :=
  BitVec.toNat_setWidth_of_le (by decide)

theorem fifoResult_get (f : FifoConsts) (j : FifoParam) : (fifoResult f).get j = BitVec.ofNat 16 (f.get j) := by
  cases j <;> rfl

/-- In an admitted generation the result registers hold the constants of the key exactly (WF9). -/
theorem fifoResult_exact (h : genOk c t = true) (hf : t.fifoAt k = some f) (j : FifoParam) :
    ((fifoResult f).get j).toNat = f.get j := by
  rw [fifoResult_get]
  exact Nat.mod_eq_of_lt (genOk_fifoConst h hf j)

/-! ## The outcomes of TUNEFIFO (R223) -/

theorem exec_tunefifo_ok (hl : s.latch = some l) (hb : s.bound p = some t)
    (hf : t.fifoAt (fifoKey s.cfg.tierInclusive p l.args) = some f) : exec (.tunefifo p) s = .next
      (((s.onBus (programFifo (t.fifoList.get p) f)).setFifo (fifoResult f)).retire (some (.tunefifo p)) .ok) := by
  unfold exec execTunefifo
  refine runCommand_ok hl ?_
  rw [withTables_of_bound hb]
  simp only [hf]

theorem exec_tunefifo_noEntry (hl : s.latch = some l) (hb : s.bound p = some t)
    (hf : t.fifoAt (fifoKey s.cfg.tierInclusive p l.args) = none) :
    exec (.tunefifo p) s = .next (s.retire (some (.tunefifo p)) (.error .unsupportedDevice)) := by
  unfold exec execTunefifo
  refine runCommand_raise hl ?_
  rw [withTables_of_bound hb]
  simp only [hf]

theorem exec_tunefifo_unbound (hl : s.latch = some l) (hg : s.gen.get p = none) :
    exec (.tunefifo p) s = .next (s.retire (some (.tunefifo p)) (.error .notInitialized)) := by
  unfold exec execTunefifo
  exact runCommand_raise hl (withTables_unbound hg)

/-- A bound index without tables stops the rule (log 16). -/
theorem withTables_missing {rule : GenTables → Run} {g : Nat} (hg : s.gen.get p = some g)
    (ht : s.cfg.gens[g]? = none) : withTables s p rule = .error (.fault .unadmittedTable) := by
  simp [withTables, State.tablesAt, hg, ht]

/-- A TUNEFIFO that completes finds its pipe unbound or bound to a generation with tables. -/
theorem tunefifo_next_gen {u : State} (h : exec (.tunefifo p) s = .next u) :
    s.gen.get p = none ∨ ∃ t, s.bound p = some t := by
  cases hg : s.gen.get p with
  | none => exact .inl rfl
  | some g =>
    cases ht : s.cfg.gens[g]? with
    | some t => exact .inr ⟨t, Option.bind_eq_some_iff.2 ⟨g, hg, ht⟩⟩
    | none =>
      unfold exec execTunefifo at h
      obtain ⟨l, -, ⟨v, hrule, -⟩ | ⟨e, hrule, -⟩⟩ := runCommand_next h
      · exact nomatch (withTables_missing hg ht).symm.trans hrule
      · exact nomatch (withTables_missing hg ht).symm.trans hrule

/-! ## The statements -/

/-- Settles O38: the outcome with an entry, whose results are exact by WF9, and the outcome without one. -/
theorem tunefifoWritesConstants : Obligations.TunefifoWritesConstants := by
  intro s p l t ha hl hb
  refine ⟨fun f hf => ?entry, fun hf => rejects_of_retire (exec_tunefifo_noEntry hl hb hf)⟩
  case entry =>
    have hok := genOk_of_bound ha hb
    have hexact := fifoResult_exact hok hf
    have hread (j : FifoParam) (u : State) (hu : u.hr.fifo = fifoResult f) : (readReg u (.fifo j)).toNat = f.get j :=
      (readReg_fifo_toNat u j).trans (hu ▸ hexact j)
    exact ⟨_, exec_tunefifo_ok hl hb hf, finished_retire _ ⟨rfl, rfl, rfl, rfl, rfl, rfl, rfl, rfl⟩, hexact,
      hread .maxDepth _ rfl, hread .threshold _ rfl, hread .highThreshold _ rfl, hread .expireNum _ rfl,
      rfl, rfl, rfl, rfl, rfl, programFifo_appends t p f _, programFifo_keepsOutside t p f _,
      fun hdis j => readValue_programFifo hok hdis j _⟩

/-- Settles O39: the tables and the key are equal, and they alone choose among the outcomes. -/
theorem tunefifoIsDeterministic : Obligations.TunefifoIsDeterministic := by
  intro s s' u u' p l l' hcfg hgen hl hl' hwidth hdepth hmem hu hu'
  have hbound : s'.bound p = s.bound p := by rw [State.bound, State.bound, hcfg, hgen]
  have hkey : fifoKey s'.cfg.tierInclusive p l'.args = fifoKey s.cfg.tierInclusive p l.args := by
    rw [fifoKey, fifoKey, hcfg, hwidth, hdepth, hmem]
  obtain hg | ⟨t, hb⟩ := tunefifo_next_gen hu
  · obtain rfl := Host.Outcome.next.inj ((exec_tunefifo_unbound hl hg).symm.trans hu)
    obtain rfl := Host.Outcome.next.inj ((exec_tunefifo_unbound hl' (hgen ▸ hg)).symm.trans hu')
    exact ⟨rfl, nofun⟩
  · have hb' : s'.bound p = some t := hbound.trans hb
    cases hf : t.fifoAt (fifoKey s.cfg.tierInclusive p l.args) with
    | none =>
      obtain rfl := Host.Outcome.next.inj ((exec_tunefifo_noEntry hl hb hf).symm.trans hu)
      obtain rfl := Host.Outcome.next.inj ((exec_tunefifo_noEntry hl' hb' (hkey ▸ hf)).symm.trans hu')
      exact ⟨rfl, nofun⟩
    | some f =>
      obtain rfl := Host.Outcome.next.inj ((exec_tunefifo_ok hl hb hf).symm.trans hu)
      obtain rfl := Host.Outcome.next.inj ((exec_tunefifo_ok hl' hb' (hkey ▸ hf)).symm.trans hu')
      exact ⟨rfl, fun _ => ⟨rfl, t, f, hb, rfl, rfl⟩⟩

/-- Settles O40: WF12 fixes the entry, and `tunefifoWritesConstants` returns it. -/
theorem sourceFifoConstants : Obligations.SourceFifoConstants := by
  intro s l g t f ha hmid hg ht hl hwidth hdepth hf
  have hb : s.bound .p0 = some t := Option.bind_eq_some_iff.2 ⟨g, hg, ht⟩
  have hentry := admitted_sourceFifoEntry ha hmid ht hf
  simp only [sourceFifoEntry, Bool.and_eq_true, Bool.or_eq_true, decide_eq_true_eq] at hentry
  obtain ⟨⟨hmax, hthr, hhthr⟩, hexpire⟩ := hentry
  have hf' : t.fifoAt ⟨.p0, tier s.cfg.tierInclusive l.args.dT.hdisplay.toNat, l.args.depth, l.args.memTier⟩ =
      some f := by rw [hwidth, hdepth]; exact hf
  obtain ⟨u, hexec, ⟨-, -, herr, -⟩, hexact, -⟩ := (tunefifoWritesConstants s .p0 l t ha hl hb).1 f hf'
  refine ⟨u, hexec, herr, (hexact .maxDepth).trans hmax, (hexact .threshold).trans hthr,
    (hexact .highThreshold).trans hhthr, ?expire⟩
  case expire =>
    have hfexpire : u.hr.fifo.expireNum.toNat = f.expireNum := hexact .expireNum
    rwa [hfexpire]

/-- Settles O41: the two if-chains, and the thresholds where the readings differ. -/
theorem tierOfEveryWidth : Obligations.TierOfEveryWidth := by
  intro h
  refine ⟨tier_true_eq_ite h, tier_false_eq_ite h, (tier_readings_differ_iff h).trans ?_⟩
  simp [tierThresh]

end Sys2Proof.Machine
end

section
/-! SUPPORT. The scaler's registers and numbers (45_scaling R242 to R250): the geometry check, the factors and flags of a
scaling, and what the writes of WriteScale and SetPath do on the bus. -/

namespace Sys2Proof.Machine

variable {c : Cfg} {t : GenTables} {sel : ScaleSel} {sc : ScalingState} {src dst : Size} {bus : Bus} {l : FieldList}

/-! ## The geometry check (R242) -/

theorem badGeometry_iff : badGeometry sel src dst = true ↔ src.h = 0 ∨ src.v = 0 ∨ dst.h = 0 ∨ dst.v = 0 ∨
    (sel = .expand ∧ (dst.h < 2 ∨ dst.v < 2)) := by
  simp only [badGeometry, Bool.or_eq_true, Bool.and_eq_true, beq_iff_eq, decide_eq_true_eq, or_assoc]

theorem badGeometry_eq_false (hsh : 0 < src.h) (hsv : 0 < src.v) (hdh : 0 < dst.h) (hdv : 0 < dst.v)
    (hexpand : sel = .expand → 2 ≤ dst.h ∧ 2 ≤ dst.v) : badGeometry sel src dst = false := by
  refine Bool.eq_false_iff.2 fun hbad => ?_
  obtain h | h | h | h | ⟨hsel, h⟩ := badGeometry_iff.1 hbad
  · exact hsh.ne' h
  · exact hsv.ne' h
  · exact hdh.ne' h
  · exact hdv.ne' h
  · obtain ⟨hh, hv⟩ := hexpand hsel
    omega

/-! ## The factors and the mode flags (R243 to R248) -/

/-- The mirror holds the horizontal factor exactly (R245). -/
theorem scalingOf_hfac_toNat (sel : ScaleSel) (dst : Size) (h : src.h < 65536) :
    (scalingOf sel src dst).hfac.toNat = hFactor sel src dst :=
  Nat.mod_eq_of_lt (axisFactor_lt sel dst.h (by decide) h)

/-- The mirror holds the vertical factor exactly (R245). -/
theorem scalingOf_vfac_toNat (sel : ScaleSel) (dst : Size) (h : src.v < 65536) :
    (scalingOf sel src dst).vfac.toNat = vFactor sel src dst :=
  Nat.mod_eq_of_lt (axisFactor_lt sel dst.v (by decide) h)

theorem scalingOf_hshr_iff :
    (scalingOf sel src dst).hshr = true ↔ sel = .shrink ∧ hFactor sel src dst ≠ 0 := by simp [scalingOf]

theorem scalingOf_vshr_iff :
    (scalingOf sel src dst).vshr = true ↔ sel = .shrink ∧ vFactor sel src dst ≠ 0 := by simp [scalingOf]

theorem scalingOf_hexp_iff :
    (scalingOf sel src dst).hexp = true ↔ sel = .expand ∧ hFactor sel src dst ≠ 0 := by simp [scalingOf]

theorem scalingOf_vexp_iff :
    (scalingOf sel src dst).vexp = true ↔ sel = .expand ∧ vFactor sel src dst ≠ 0 := by simp [scalingOf]

theorem scalingOf_bufshare_iff : (scalingOf sel src dst).bufshare = true ↔
    sel = .shrink ∧ hFactor sel src dst ≠ 0 ∧ bufshareHmin < dst.h := by
  simp [scalingOf, bufshareFlag, and_assoc]

/-- The bits of SCALE_MODE above BUFSHARE are 0 (R43). -/
theorem scaleModeWord_high (sc : ScalingState) (i : Nat) : (scaleModeWord sc).getLsbD (i + 5) = false := by
  rw [scaleModeWord, append_flag_succ, append_flag_succ, append_flag_succ, append_flag_succ, append_flag_succ]
  exact BitVec.getLsbD_zero

theorem scaleModeWord_unused (sc : ScalingState) : (scaleModeWord sc).extractLsb' 5 27 = 0#27 := by
  refine BitVec.eq_of_getLsbD_eq fun j hj => ?_
  rw [BitVec.getLsbD_extractLsb', Nat.add_comm 5 j, scaleModeWord_high]
  simp

/-! ## What admission says of the scaler lists (R152) -/

/-- The scaler lists stand among the lists that the checks look at. -/
theorem scalerLists_subset_allLists (t : GenTables) : t.scaler.lists ⊆ t.allLists := fun _ h =>
  List.mem_append_left _ (List.mem_append_right _ h)

/-- WF1: the fields of a scaler list are in bounds. -/
theorem genOk_scalerFieldOk (h : genOk c t = true) (hl : l ∈ t.scaler.lists) : ∀ f ∈ l, FieldOk f :=
  genOk_fieldOk h l (scalerLists_subset_allLists t hl)

/-- WF2: no scaler list overlaps itself. -/
theorem genOk_scalerDisjoint (h : genOk c t = true) (hl : l ∈ t.scaler.lists) : disjointFields l = true :=
  genOk_disjoint h l (scalerLists_subset_allLists t hl)

theorem scaleLists_subset_lists (c : ScalerCfg) : scaleLists c ⊆ c.lists := by
  simp [scaleLists, ScalerCfg.lists]

theorem path_mem_lists (c : ScalerCfg) : c.path ∈ c.lists := by simp [ScalerCfg.lists]

/-- WF3: the widths of the factor lists and of the one-bit lists. -/
theorem genOk_scalerWidth (h : genOk c t = true) :
    fieldsWidth t.scaler.hFac = 12 ∧ fieldsWidth t.scaler.vFac = 11 ∧
      ∀ l ∈ [t.scaler.hEn, t.scaler.vEn, t.scaler.hDir, t.scaler.vDir, t.scaler.bufShare], fieldsWidth l = 1 := by
  simp only [genOk, Bool.and_eq_true] at h
  obtain ⟨⟨⟨⟨⟨⟨⟨⟨-, h3⟩, -⟩, -⟩, -⟩, -⟩, -⟩, -⟩, -⟩ := h
  simp only [wf3, Bool.and_eq_true, decide_eq_true_eq] at h3
  obtain ⟨⟨⟨⟨⟨⟨-, -⟩, hh⟩, hv⟩, hone⟩, -⟩, -⟩ := h3
  exact ⟨hh, hv, by simpa only [List.all_eq_true, decide_eq_true_eq] using hone⟩

/-- WF10: every path code fits the path-select field. -/
theorem genOk_pathCode_lt (h : genOk c t = true) (v : PathSel) :
    t.scaler.pathEnc.code v < 2 ^ fieldsWidth t.scaler.path := by
  simp only [genOk, Bool.and_eq_true] at h
  obtain ⟨-, h10⟩ := h
  simp only [wf10, List.all_eq_true, decide_eq_true_eq] at h10
  exact h10 v (by cases v <;> decide)

/-! ## WriteScale (R249) -/

/-- The lists of WriteScale with the values that it writes through them, in its order. -/
def scaleWrites (c : ScalerCfg) (sel : ScaleSel) (sc : ScalingState) : List (FieldList × Nat) :=
  [(c.hFac, sc.hfac.toNat), (c.vFac, sc.vfac.toNat), (c.hDir, dirValue sel), (c.vDir, dirValue sel),
   (c.bufShare, bitValue sc.bufshare), (c.hEn, bitValue (sc.hfac != 0)), (c.vEn, bitValue (sc.vfac != 0))]

theorem writeScale_eq_writeLists (c : ScalerCfg) (sel : ScaleSel) (sc : ScalingState) (bus : Bus) :
    writeScale c sel sc bus = writeLists (scaleWrites c sel sc) bus := rfl

theorem scaleWrites_lists (c : ScalerCfg) (sel : ScaleSel) (sc : ScalingState) :
    (scaleWrites c sel sc).map Prod.fst = scaleLists c := rfl

/-- WriteScale issues the RD and WR of each field of its seven lists, in order, and no other event. -/
theorem writeScale_appends (c : ScalerCfg) (sel : ScaleSel) (sc : ScalingState) (bus : Bus) :
    Appends bus (writeScale c sel sc bus) ((scaleLists c).flatMap listTouches) :=
  writeLists_appends (scaleWrites c sel sc) bus

/-- WriteScale changes no byte outside the registers of its seven lists. -/
theorem writeScale_keepsOutside (c : ScalerCfg) (sel : ScaleSel) (sc : ScalingState) (bus : Bus) :
    KeepsOutside ((scaleLists c).flatMap regsOf) bus (writeScale c sel sc bus) :=
  writeLists_keepsOutside (scaleWrites c sel sc) bus

/-- In an admitted generation whose scaler lists share no bit, each list reads back the low bits of its value. -/
theorem readValue_writeScale {v : Nat} (h : genOk c t = true)
    (hdis : disjointFields (scaleLists t.scaler).flatten = true) (hmem : (l, v) ∈ scaleWrites t.scaler sel sc) :
    readValue l (writeScale t.scaler sel sc bus) = v % 2 ^ fieldsWidth l := by
  have hok : ∀ w ∈ scaleWrites t.scaler sel sc, ∀ f ∈ w.1, FieldOk f := fun w hw =>
    genOk_scalerFieldOk h <| scaleLists_subset_lists _ <|
      scaleWrites_lists t.scaler sel sc ▸ List.mem_map_of_mem hw
  exact readValue_writeLists hok hdis hmem

theorem dirValue_mod_two (sel : ScaleSel) : dirValue sel % 2 ^ 1 = if sel = .shrink then 1 else 0 := by
  cases sel <;> rfl

theorem bitValue_mod_two (b : Bool) : bitValue b % 2 ^ 1 = if b = true then 1 else 0 := by cases b <;> rfl

/-- An axis is enabled when its factor is not 0 (R247). -/
theorem enableValue_mod_two (w : Word) : bitValue (w != 0) % 2 ^ 1 = if w = 0#32 then 0 else 1 := by
  by_cases hw : w = 0#32 <;> simp [bitValue, hw]

/-! ## SetPath (R250) -/

/-- SetPath issues the RD and WR of each field of the path-select list, and no other event. -/
theorem writePath_appends (c : ScalerCfg) (v : PathSel) (bus : Bus) :
    Appends bus (writePath c v bus) (listTouches c.path) := writeValue_appends _ _ _

/-- SetPath changes no byte outside the registers of the path-select list. -/
theorem writePath_keepsOutside (c : ScalerCfg) (v : PathSel) (bus : Bus) :
    KeepsOutside (regsOf c.path) bus (writePath c v bus) := writeValue_keepsOutside _ _ _

/-- In an admitted generation the path-select field reads back the code that SetPath wrote. -/
theorem readValue_writePath (h : genOk c t = true) (v : PathSel) (bus : Bus) :
    readValue t.scaler.path (writePath t.scaler v bus) = t.scaler.pathEnc.code v := by
  have hpath := path_mem_lists t.scaler
  calc readValue t.scaler.path (writePath t.scaler v bus)
    _ = t.scaler.pathEnc.code v % 2 ^ fieldsWidth t.scaler.path :=
        readValue_writeValue (genOk_scalerFieldOk h hpath) (genOk_scalerDisjoint h hpath)
    _ = t.scaler.pathEnc.code v := Nat.mod_eq_of_lt (genOk_pathCode_lt h v)

/-! ## The statement -/

/-- Settles O43: each list reads back the low bits of its value, as many as WF3 gives it. -/
theorem scalerFieldsReadBack : Obligations.ScalerFieldsReadBack := by
  intro c t sel sc bus hok hdis
  obtain ⟨hh, hv, hone⟩ := genOk_scalerWidth hok
  have hread {l : FieldList} {v n : Nat} (hw : fieldsWidth l = n) (hmem : (l, v) ∈ scaleWrites t.scaler sel sc) :
      readValue l (writeScale t.scaler sel sc bus) = v % 2 ^ n := hw ▸ readValue_writeScale hok hdis hmem
  refine ⟨hread hh ?_, hread hv ?_, (hread (hone _ ?_) ?_).trans (dirValue_mod_two sel),
    (hread (hone _ ?_) ?_).trans (dirValue_mod_two sel), (hread (hone _ ?_) ?_).trans (bitValue_mod_two _),
    (hread (hone _ ?_) ?_).trans (enableValue_mod_two _), (hread (hone _ ?_) ?_).trans (enableValue_mod_two _)⟩
  all_goals simp [scaleWrites]

end Sys2Proof.Machine
end

section
/-! SUPPORT. COMPSCALE, SETPATH and PROGSCALE (45_scaling R242 to R261): the state that each of their outcomes leaves, and
the statements about them. -/

namespace Sys2Proof.Machine

variable {s : State} {sel : ScaleSel} {l : Latch} {t : GenTables}

/-! ## The outcomes of COMPSCALE (R242, R246) -/

theorem exec_compscale_ok (hl : s.latch = some l) (hb : s.bound s.cfg.scalerPipe = some t)
    (hgeo : badGeometry sel (srcSize l.args) (dstSize l.args) = false) : exec (.compscale sel) s = .next
      (((s.onBus (writeScale t.scaler sel (scalingOf sel (srcSize l.args) (dstSize l.args)))).setScale
        (scalingOf sel (srcSize l.args) (dstSize l.args))).retire (some (.compscale sel)) .ok) := by
  unfold exec execCompscale
  refine runCommand_ok hl ?_
  rw [withTables_of_bound hb, if_neg (Bool.eq_false_iff.1 hgeo)]

theorem exec_compscale_degenerate (hl : s.latch = some l) (hb : s.bound s.cfg.scalerPipe = some t)
    (hgeo : badGeometry sel (srcSize l.args) (dstSize l.args) = true) :
    exec (.compscale sel) s = .next (s.retire (some (.compscale sel)) (.error .invalidGeometry)) := by
  unfold exec execCompscale
  refine runCommand_raise hl ?_
  rw [withTables_of_bound hb, if_pos hgeo]

/-! ## The outcome of SETPATH (R250) -/

theorem exec_setpath_ok {v : PathSel} (hl : s.latch = some l) (hb : s.bound s.cfg.scalerPipe = some t) :
    exec (.setpath v) s = .next ((setPath t.scaler v s).retire (some (.setpath v)) .ok) := by
  unfold exec execSetpath
  exact runCommand_ok hl (withTables_of_bound hb)

/-! ## The outcomes of PROGSCALE (R242, R260) -/

theorem exec_progscale_downscale (hl : s.latch = some l) (hb : s.bound s.cfg.scalerPipe = some t)
    (hgeo : badGeometry sel (srcSize l.args) (dstSize l.args) = false)
    (hdown : isDownscale (scalingOf sel (srcSize l.args) (dstSize l.args)) = true) : exec (.progscale sel) s = .next
      (((loadDownscale t l.args (s.onBus (writeScale t.scaler sel
        (scalingOf sel (srcSize l.args) (dstSize l.args))))).setScale
        (scalingOf sel (srcSize l.args) (dstSize l.args))).retire (some (.progscale sel)) .ok) := by
  unfold exec execProgscale
  refine runCommand_ok hl ?_
  rw [withTables_of_bound hb, if_neg (Bool.eq_false_iff.1 hgeo)]
  simp only [hdown, if_true, Bool.true_eq_false, false_and, if_false]

theorem exec_progscale_plain (hl : s.latch = some l) (hb : s.bound s.cfg.scalerPipe = some t)
    (hgeo : badGeometry sel (srcSize l.args) (dstSize l.args) = false)
    (hdown : isDownscale (scalingOf sel (srcSize l.args) (dstSize l.args)) = false) (hpath : s.path ≠ .src) :
    exec (.progscale sel) s = .next
      ((((s.onBus (writeScale t.scaler sel (scalingOf sel (srcSize l.args) (dstSize l.args)))).onBus
        (programTiming t s.cfg.scalerPipe (timingOf l.args.dT))).setScale
        (scalingOf sel (srcSize l.args) (dstSize l.args))).retire (some (.progscale sel)) .ok) := by
  unfold exec execProgscale
  refine runCommand_ok hl ?_
  rw [withTables_of_bound hb, if_neg (Bool.eq_false_iff.1 hgeo)]
  simp only [hdown, hpath, and_false, if_false, Bool.false_eq_true]
  rfl

theorem exec_progscale_mismatch (hl : s.latch = some l) (hb : s.bound s.cfg.scalerPipe = some t)
    (hgeo : badGeometry sel (srcSize l.args) (dstSize l.args) = false)
    (hdown : isDownscale (scalingOf sel (srcSize l.args) (dstSize l.args)) = false) (hpath : s.path = .src) :
    exec (.progscale sel) s = .next (s.retire (some (.progscale sel)) (.error .pathMismatch)) := by
  unfold exec execProgscale
  refine runCommand_raise hl ?_
  rw [withTables_of_bound hb, if_neg (Bool.eq_false_iff.1 hgeo)]
  exact if_pos ⟨hdown, hpath⟩

theorem exec_progscale_degenerate (hl : s.latch = some l) (hb : s.bound s.cfg.scalerPipe = some t)
    (hgeo : badGeometry sel (srcSize l.args) (dstSize l.args) = true) :
    exec (.progscale sel) s = .next (s.retire (some (.progscale sel)) (.error .invalidGeometry)) := by
  unfold exec execProgscale
  refine runCommand_raise hl ?_
  rw [withTables_of_bound hb, if_pos hgeo]

/-! ## The timing loads of a downscale (R260, R261) -/

/-- The timing loads issue the events of their five writes, in order, and no other event. -/
theorem downscaleLoads_appends (c : Cfg) (t : GenTables) (x : ArgRegs) (bus : Bus) :
    Appends bus (downscaleLoads c t x bus)
      (listTouches t.scaler.path ++ ((timingLists t c.scalerPipe).flatMap listTouches ++ (listTouches t.scaler.path ++
        ((timingLists t c.scalerPipe).flatMap listTouches ++ listTouches t.scaler.path)))) :=
  (writePath_appends _ _ _).trans <| (programTiming_appends _ _ _ _).trans <| (writePath_appends _ _ _).trans <|
    (programTiming_appends _ _ _ _).trans (writePath_appends _ _ _)

/-- The timing loads change no byte outside the registers of the path-select list and of the twelve timing lists. -/
theorem downscaleLoads_keepsOutside (c : Cfg) (t : GenTables) (x : ArgRegs) (bus : Bus) :
    KeepsOutside (regsOf t.scaler.path ++ (timingLists t c.scalerPipe).flatMap regsOf) bus
      (downscaleLoads c t x bus) := by
  have hpath (v : PathSel) (b : Bus) :=
    (writePath_keepsOutside t.scaler v b).mono
      (List.subset_append_left _ ((timingLists t c.scalerPipe).flatMap regsOf))
  have htiming (v : Timing) (b : Bus) :=
    (programTiming_keepsOutside t c.scalerPipe v b).mono (List.subset_append_right (regsOf t.scaler.path) _)
  exact ((((hpath _ _).trans (htiming _ _)).trans (hpath _ _)).trans (htiming _ _)).trans (hpath _ _)

/-! ## The statements -/

/-- Settles O42: the mirror holds the factors exactly (R245), and the window reads the mirror. -/
theorem compscaleComputesFactors : Obligations.CompscaleComputesFactors := by
  rintro s sel l t _ _ _ _ hl hb rfl rfl rfl rfl hsh hsv hdh hdv hexpand
  have hgeo : badGeometry sel (srcSize l.args) (dstSize l.args) = false :=
    badGeometry_eq_false hsh hsv hdh hdv hexpand
  have hfac := scalingOf_hfac_toNat (src := srcSize l.args) sel (dstSize l.args) l.args.sT.hdisplay.isLt
  have vfac := scalingOf_vfac_toNat (src := srcSize l.args) sel (dstSize l.args) l.args.sT.vdisplay.isLt
  obtain ⟨hbit0, hbit1, hbit2, hbit3, hbit4⟩ :=
    scaleModeWord_bits (scalingOf sel (srcSize l.args) (dstSize l.args))
  exact ⟨_, hFactor sel (srcSize l.args) (dstSize l.args), vFactor sel (srcSize l.args) (dstSize l.args),
    exec_compscale_ok hl hb hgeo, finished_retire _ (ruleKeeps_refl s),
    by cases sel <;> rfl, by cases sel <;> rfl, hfac, vfac,
    scalingOf_hshr_iff, scalingOf_vshr_iff, scalingOf_hexp_iff, scalingOf_vexp_iff, scalingOf_bufshare_iff,
    hfac, vfac, hbit0 ▸ scalingOf_hshr_iff, hbit1 ▸ scalingOf_vshr_iff, hbit2 ▸ scalingOf_hexp_iff,
    hbit3 ▸ scalingOf_vexp_iff, hbit4 ▸ scalingOf_bufshare_iff, scaleModeWord_unused _,
    ⟨rfl, rfl⟩, rfl, rfl, rfl, writeScale_appends _ _ _ _, writeScale_keepsOutside _ _ _ _⟩

/-- Settles O44: the check of R242 decides both commands, and neither raises InvalidGeometry past it. -/
theorem degenerateGeometryRejected : Obligations.DegenerateGeometryRejected := by
  intro s sel l t degenerate hl hb hdeg
  have hbad : degenerate ↔ badGeometry sel (srcSize l.args) (dstSize l.args) = true :=
    hdeg.trans (badGeometry_iff (src := srcSize l.args) (dst := dstSize l.args)).symm
  refine ⟨fun h => ⟨?compscale, ?progscale⟩, fun h => ?valid⟩
  case compscale => exact rejects_of_retire (exec_compscale_degenerate hl hb (hbad.1 h))
  case progscale => exact rejects_of_retire (exec_progscale_degenerate hl hb (hbad.1 h))
  case valid =>
    have hgeo := Bool.eq_false_iff.2 (mt hbad.2 h)
    rintro u (hu | hu)
    · obtain rfl := Host.Outcome.next.inj ((exec_compscale_ok hl hb hgeo).symm.trans hu)
      nofun
    · cases hdown : isDownscale (scalingOf sel (srcSize l.args) (dstSize l.args)) with
      | true =>
        obtain rfl := Host.Outcome.next.inj ((exec_progscale_downscale hl hb hgeo hdown).symm.trans hu)
        nofun
      | false =>
        by_cases hpath : s.path = .src
        · obtain rfl := Host.Outcome.next.inj ((exec_progscale_mismatch hl hb hgeo hdown hpath).symm.trans hu)
          nofun
        · obtain rfl := Host.Outcome.next.inj ((exec_progscale_plain hl hb hgeo hdown hpath).symm.trans hu)
          nofun

/-- Settles O45: the field reads back its code by WF10. -/
theorem setpathWritesFieldAndMirror : Obligations.SetpathWritesFieldAndMirror := by
  intro s v l t ha hl hb
  exact ⟨_, exec_setpath_ok hl hb, finished_retire _ (ruleKeeps_refl s),
    by cases v <;> rfl, by cases v <;> rfl, readValue_writePath (genOk_of_bound ha hb) v _,
    wroteList_writeValue _ _ _, ⟨rfl, rfl⟩, rfl, rfl⟩

/-- Settles O46: the scale, then the five writes of `downscaleLoads`, of which the last two path codes are read back. -/
theorem progscaleDownscaleEndsAtDst : Obligations.ProgscaleDownscaleEndsAtDst := by
  rintro s l t _ ha hl rfl hb hgeo hdown
  have hok := genOk_of_bound ha hb
  refine ⟨_, _, exec_progscale_downscale hl hb hgeo hdown,
    finished_retire _ (ruleKeeps_refl s), rfl, rfl, ⟨rfl, rfl⟩, rfl,
    readValue_writePath hok .dst _, rfl, readValue_writePath hok .src _, rfl, ?events, ?frame⟩
  case events =>
    simp only [List.append_assoc]
    exact (writeScale_appends _ _ _ _).trans (downscaleLoads_appends s.cfg t l.args _)
  case frame =>
    simp only [List.flatMap_append, List.flatMap_singleton, List.append_assoc]
    exact ((writeScale_keepsOutside _ _ _ _).mono (List.subset_append_left _ _)).trans
      ((downscaleLoads_keepsOutside s.cfg t l.args _).mono (List.subset_append_right _ _))

/-- Settles O47: the scale and the destination timing away from SRC, and the mismatch at SRC. -/
theorem progscaleWithoutDownscale : Obligations.ProgscaleWithoutDownscale := by
  rintro s sel l t _ hl rfl hb hgeo hdown
  refine ⟨fun hpath => ?loads, fun hpath => rejects_of_retire (exec_progscale_mismatch hl hb hgeo hdown hpath)⟩
  case loads =>
    refine ⟨_, exec_progscale_plain hl hb hgeo hdown hpath,
      finished_retire _ (ruleKeeps_refl s), rfl, rfl, ⟨rfl, rfl⟩, rfl, rfl,
      (writeScale_appends _ _ _ _).trans (programTiming_appends _ _ _ _), ?frame⟩
    case frame =>
      rw [List.flatMap_append]
      exact ((writeScale_keepsOutside _ _ _ _).mono (List.subset_append_left _ _)).trans
        ((programTiming_keepsOutside _ _ _ _).mono (List.subset_append_right _ _))

end Sys2Proof.Machine
end

section
/-! SUPPORT. The Engine's turn and what every completion sets and leaves alone (60_exceptions R301, R303, R304), and the
statements about them. -/

namespace Sys2Proof.Machine

variable {s t : State} {l : Latch} {i : Instr}

/-! ## The Engine's turn (R301, R304) -/

theorem engineTurn_idle (hp : s.phase = .idle) : engineTurn s = .next s := by simp [engineTurn, hp]

/-- In BUSY the turn runs the command that the latched word decodes to (R107, R304). -/
theorem engineTurn_decoded (hp : s.phase = .busy) (hl : s.latch = some l) (hd : decode l.word = .ok i) :
    engineTurn s = exec i s := by
  simp [engineTurn, execute, hp, hl, hd]

/-- In BUSY a latched word that fails the decode completes with IllegalCommand (R301). -/
theorem engineTurn_illegal {e : DecodeError} (hp : s.phase = .busy) (hl : s.latch = some l)
    (hd : decode l.word = .error e) : engineTurn s = .next (s.retire none (.error .illegalCommand)) := by
  simp [engineTurn, execute, hp, hl, hd, raise, complete]

/-! ## The steps that are the Engine's (R312, R350) -/

theorem step_noInput (ha : admitted s.cfg = true) (hin : s.inputs = []) : step s = engineTurn s := by
  simp [step, ha, advance, hin]

theorem step_engine {rest : List Input} (ha : admitted s.cfg = true) (hin : s.inputs = .engine :: rest) :
    step s = engineTurn { s with inputs := rest } := by
  rw [step_eq ha, nextInput_cons hin, consume_cons hin]
  rfl

/-- A placed word is accepted and the Engine's turn comes first (log 8). -/
theorem step_withFetchWord (w : Word) (ha : admitted s.cfg = true) :
    step (s.withFetchWord 32 w.toNat) = engineTurn (s.accept w) := by
  have hw : BitVec.ofNat 32 (w.toNat % 2 ^ 32) = w := by
    rw [Nat.mod_eq_of_lt w.isLt, BitVec.ofNat_toNat, BitVec.setWidth_eq]
  rw [step_engine (s := s.withFetchWord 32 w.toNat) ha rfl, State.withFetchWord, hw]
  rfl

/-! ## What a completion answers (R303, R304) -/

/-- `Execute` answers a next state by an error with nothing but the STATUS update, or by the success of a command. -/
theorem execute_completes (h : execute s = .next t) :
    (∃ c e, t = s.retire c (.error e)) ∨ ∃ c u, t = State.retire u (some c) .ok := by
  unfold execute at h
  split at h
  · cases h
  · split at h
    · obtain ⟨-, -, ⟨e, rfl⟩ | ⟨u, rfl, -⟩⟩ := exec_next h
      · exact .inl ⟨_, e, rfl⟩
      · exact .inr ⟨_, u, rfl⟩
    · cases h
      exact .inl ⟨none, .illegalCommand, rfl⟩

/-- STATUS after an IllegalCommand: ERR 3, DONE set, BUSY clear, OVR as it was (R38, R300). -/
theorem readReg_status_illegal (s : State) (c : Option Instr) :
    readReg (s.retire c (.error .illegalCommand)) .status = if s.hr.ovr then 0x36#32 else 0x32#32 := by
  simp only [readReg, statusWord, State.retire_hr, State.retire_phase]
  cases s.hr.ovr <;> decide

/-! ## The statements -/

/-- Settles O4: the Engine's turn decodes the latched word, and the encoder's word decodes to its command. -/
theorem stepRunsDecodedCommand : Obligations.StepRunsDecodedCommand := by
  refine ⟨fun s l i ha hp hl hd => ⟨fun hin => ?noInput, fun rest hin => ?engineFirst⟩, fun s i ha hwf => ?placed⟩
  case noInput => exact (step_noInput ha hin).trans (engineTurn_decoded hp hl hd)
  case engineFirst =>
    exact (step_engine ha hin).trans (engineTurn_decoded (s := { s with inputs := rest }) hp hl hd)
  case placed =>
    exact (step_withFetchWord _ ha).trans (engineTurn_decoded rfl rfl (decodeEncodeRoundTrip i hwf))

/-- Settles O5: the word completes by the STATUS update alone. -/
theorem illegalWordCompletes : Obligations.IllegalWordCompletes := by
  intro s l e ha hp hl hd hin
  exact ⟨_, (step_noInput ha hin).trans (engineTurn_illegal hp hl hd), readReg_status_illegal s none,
    rfl, rfl, rfl, rfl, ⟨⟨rfl, rfl⟩, rfl, rfl, rfl⟩, rfl, rfl, rfl, rfl⟩

/-- Settles O6: the Engine's turn in IDLE is the state itself. -/
theorem engineIdleTakesNoStep : Obligations.EngineIdleTakesNoStep := by
  intro s ha hp
  exact ⟨fun hin => (step_noInput ha hin).trans (engineTurn_idle hp),
    fun rest hin => (step_engine ha hin).trans (engineTurn_idle (s := { s with inputs := rest }) hp)⟩

/-- Settles O14: a success reports ERR 0, and an error is the STATUS update alone. -/
theorem errorsChangeNothingButStatus : Obligations.ErrorsChangeNothingButStatus := by
  intro s t e h herr
  obtain ⟨c, e', rfl⟩ | ⟨c, u, rfl⟩ := execute_completes h
  · cases herr
    exact ⟨rfl, ⟨⟨rfl, rfl⟩, rfl, rfl, rfl⟩, rfl⟩
  · cases herr

/-- Settles O15: an error and a success both retire a state that the rule kept outside its own results. -/
theorem completionFrame : Obligations.CompletionFrame := by
  intro i s t h
  obtain ⟨l, -, ⟨e, rfl⟩ | ⟨u, rfl, hkeeps, -⟩⟩ := exec_next h
  · exact finished_retire _ (ruleKeeps_refl s)
  · exact finished_retire _ hkeeps

end Sys2Proof.Machine
end

section
/-! SUPPORT. The verdict of a command (60_exceptions R302): what each check of the order decides, command by command,
and the statement about it. -/

namespace Sys2Proof.Machine

variable {s u : State} {p : Pipe} {l : Latch} {i : Instr} {t : GenTables} {x : ArgRegs} {imm : BitVec 8}
  {sel : ScaleSel}

/-! ## The order of the checks -/

/-- The error of the first check of a list that applies, or OK. -/
def firstError (cs : List (Bool × CmdError)) : Verdict :=
  match cs.find? Prod.fst with
  | some (_, e) => .error e
  | none => .ok

@[simp] theorem firstError_nil : firstError [] = .ok := rfl

@[simp] theorem firstError_cons (b : Bool) (e : CmdError) (cs : List (Bool × CmdError)) :
    firstError ((b, e) :: cs) = if b then .error e else firstError cs := by
  cases b <;> rfl

theorem expectedVerdict_eq_firstError (i : Instr) (s : State) (x : ArgRegs) :
    expectedVerdict i s x = firstError (errorChecks i s x) := rfl

/-- Check 1 of R302 comes before every other. -/
theorem expectedVerdict_illegalFirst (h : illegalFirst s.cfg i = true) :
    expectedVerdict i s x = .error .illegalCommand := by
  simp [expectedVerdict_eq_firstError, errorChecks, h]

/-- Check 2 of R302 on a pipe that is not bound. -/
theorem expectedVerdict_unbound (hfirst : illegalFirst s.cfg i = false) (hn : neededPipe s.cfg i = some p)
    (hg : s.gen.get p = none) : expectedVerdict i s x = .error .notInitialized := by
  simp [expectedVerdict_eq_firstError, errorChecks, hfirst, hn, hg]

/-- Checks 3 to 6 of R302, on a pipe that is bound. -/
theorem expectedVerdict_bound (hfirst : illegalFirst s.cfg i = false) (hn : neededPipe s.cfg i = some p)
    (hb : s.bound p = some t) : expectedVerdict i s x =
      firstError [(illegalTable s i, .illegalCommand), (unsupported s x i, .unsupportedDevice),
        (geometryError x i, .invalidGeometry), (pathError s x i, .pathMismatch)] := by
  obtain ⟨g, hg, -⟩ := Option.bind_eq_some_iff.1 hb
  cases i with
  | init q => cases hn
  | _ => simp [expectedVerdict_eq_firstError, errorChecks, hfirst, hn, hg]

/-- The checks of R302 that INIT can fail. -/
theorem expectedVerdict_init : expectedVerdict (.init p) s x =
    firstError [((s.gen.get p).isSome, .alreadyInitialized), (unsupported s x (.init p), .unsupportedDevice)] := by
  simp [expectedVerdict_eq_firstError, errorChecks, illegalFirst, neededPipe, illegalTable, geometryError, pathError]

/-! ## A command that reports what R302 asks for -/

/-- The command completes, with the verdict of R302. -/
def ReportsExpected (i : Instr) (s : State) (x : ArgRegs) : Prop :=
  ∃ t, exec i s = .next t ∧ t.hr.err = expectedVerdict i s x

theorem reportsExpected_of_retire {c : Option Instr} {v : Verdict} (h : exec i s = .next (u.retire c v))
    (hv : expectedVerdict i s x = v) : ReportsExpected i s x := ⟨_, h, hv.symm⟩

/-- Check 1: the IMM that names no list, and SYNTH off the scaler pipe. -/
theorem exec_illegalFirst (hl : s.latch = some l) (h : illegalFirst s.cfg i = true) :
    exec i s = .next (s.retire (some i) (.error .illegalCommand)) := by
  cases i with
  | wrval p imm => exact exec_wrval_noList hl (ofImm_none (of_decide_eq_true h))
  | progtim p sel =>
    simp only [illegalFirst, Bool.and_eq_true, beq_iff_eq, bne_iff_ne] at h
    obtain ⟨rfl, hp⟩ := h
    exact exec_progtim_synth_off hl hp
  | _ => cases h

/-- An IMM below 16 names a list (R106). -/
theorem exists_ofImm (h : imm.toNat < 16) : ∃ sel, ListSel.ofImm imm = some sel :=
  ⟨_, List.getElem?_eq_getElem (show imm.toNat < ListSel.all.length from h)⟩

/-- A command whose rule starts with the NotInitialized check, on a pipe that is not bound (R161). -/
theorem runCommand_unbound {rule : ArgRegs → GenTables → Run} (hl : s.latch = some l) (hg : s.gen.get p = none) :
    runCommand i s (fun x => withTables s p (rule x)) = .next (s.retire (some i) (.error .notInitialized)) :=
  runCommand_raise hl (withTables_unbound hg)

/-- Check 2: a command that passes check 1 and needs a pipe that is not bound (R161). -/
theorem exec_unbound (hl : s.latch = some l) (hfirst : illegalFirst s.cfg i = false)
    (hn : neededPipe s.cfg i = some p) (hg : s.gen.get p = none) :
    exec i s = .next (s.retire (some i) (.error .notInitialized)) := by
  cases i with
  | init q => cases hn
  | wrval q imm =>
    obtain rfl := Option.some.inj hn
    obtain ⟨sel, hsel⟩ := exists_ofImm (not_le.1 (of_decide_eq_false hfirst))
    unfold exec execWrval
    refine runCommand_raise hl ?_
    simp only [hsel]
    exact withTables_unbound hg
  | progtim q sel =>
    obtain rfl := Option.some.inj hn
    unfold exec execProgtim
    refine runCommand_raise hl ?_
    rw [if_neg (by simpa [illegalFirst] using hfirst), withTables_unbound hg]
  | _ =>
    obtain rfl := Option.some.inj hn
    unfold exec
    exact runCommand_unbound hl hg

/-- A pipe is unbound, or has the tables of its generation (R151, R152). -/
theorem unbound_or_bound (hs : s.gensOk) (p : Pipe) : s.gen.get p = none ∨ ∃ t, s.bound p = some t := by
  obtain ⟨hmem, -⟩ := hs
  cases hg : s.gen.get p with
  | none => exact .inl rfl
  | some g => exact .inr ⟨_, Option.bind_eq_some_iff.2 ⟨g, hg, List.getElem?_eq_getElem (hmem p g hg)⟩⟩

/-! ## Checks 3 to 6, command by command -/

theorem init_reportsExpected (hl : s.latch = some l) : ReportsExpected (.init p) s l.args := by
  cases hg : s.gen.get p with
  | some g => exact reportsExpected_of_retire (exec_init_bound hl hg) (by simp [expectedVerdict_init, hg])
  | none =>
    cases hres : s.cfg.resolveChip l.args.chipId with
    | none =>
      exact reportsExpected_of_retire (exec_init_unresolved hl hg hres)
        (by simp [expectedVerdict_init, unsupported, hg, hres])
    | some g =>
      cases ho : s.gen.get p.other with
      | none =>
        exact reportsExpected_of_retire (exec_init_ok hl hg hres (by simp [ho]))
          (by simp [expectedVerdict_init, unsupported, hg, hres, ho])
      | some g' =>
        by_cases hne : g' = g
        · exact reportsExpected_of_retire (exec_init_ok hl hg hres (by simp [ho, hne]))
            (by simp [expectedVerdict_init, unsupported, hg, hres, ho, hne])
        · exact reportsExpected_of_retire (exec_init_otherGen hl hg hres ho hne)
            (by simp [expectedVerdict_init, unsupported, hg, hres, ho, hne])

theorem wrlit_reportsExpected (hl : s.latch = some l) (hb : s.bound p = some t) :
    ReportsExpected (.wrlit p imm) s l.args := by
  have hv : expectedVerdict (.wrlit p imm) s l.args =
      if t.lit.length ≤ imm.toNat then .error .illegalCommand else .ok := by
    simp [expectedVerdict_bound (i := .wrlit p imm) rfl rfl hb, illegalTable, unsupported, geometryError, pathError, hb]
  cases htab : t.lit[imm.toNat]? with
  | none =>
    have hlen := List.getElem?_eq_none_iff.1 htab
    exact reportsExpected_of_retire (exec_wrlit_noTable hl hb htab) (hv.trans (if_pos hlen))
  | some tab =>
    obtain ⟨hlen, -⟩ := List.getElem?_eq_some_iff.1 htab
    exact reportsExpected_of_retire (exec_wrlit_bound hl hb htab) (hv.trans (if_neg (not_le.2 hlen)))

theorem wrval_reportsExpected (hl : s.latch = some l) (hfirst : illegalFirst s.cfg (.wrval p imm) = false)
    (hb : s.bound p = some t) : ReportsExpected (.wrval p imm) s l.args := by
  have hv : expectedVerdict (.wrval p imm) s l.args = .ok := by
    simp [expectedVerdict_bound hfirst rfl hb, illegalTable, unsupported, geometryError, pathError]
  obtain ⟨sel, hsel⟩ := exists_ofImm (not_le.1 (of_decide_eq_false hfirst))
  exact reportsExpected_of_retire (exec_wrval_bound hl hsel hb) hv

theorem progtim_reportsExpected {sel : TimingSel} (hl : s.latch = some l)
    (hfirst : illegalFirst s.cfg (.progtim p sel) = false) (hb : s.bound p = some t) :
    ReportsExpected (.progtim p sel) s l.args := by
  have hv : expectedVerdict (.progtim p sel) s l.args =
      if p = s.cfg.scalerPipe ∧ ¬ (sel = .synth ↔ s.path = .src) then .error .pathMismatch else .ok := by
    cases sel <;>
      simp [expectedVerdict_bound hfirst rfl hb, illegalTable, unsupported, geometryError, pathError]
  by_cases hpath : p = s.cfg.scalerPipe ∧ ¬ (sel = .synth ↔ s.path = .src)
  · obtain ⟨hp, hmismatch⟩ := hpath
    exact reportsExpected_of_retire (exec_progtim_mismatch hl hb hp hmismatch) (hv.trans (if_pos ⟨hp, hmismatch⟩))
  · have hsynth : sel = .synth → p = s.cfg.scalerPipe := by simpa [illegalFirst] using hfirst
    exact reportsExpected_of_retire
      (exec_progtim_ok hl hb hsynth fun hp => not_not.1 fun hmismatch => hpath ⟨hp, hmismatch⟩)
      (hv.trans (if_neg hpath))

theorem synpll_reportsExpected (ha : admitted s.cfg = true) (hl : s.latch = some l) (hb : s.bound p = some t) :
    ReportsExpected (.synpll p) s l.args := by
  have hv : expectedVerdict (.synpll p) s l.args = if t.pll.isNone then .error .unsupportedDevice else .ok := by
    simp [expectedVerdict_bound (i := .synpll p) rfl rfl hb, illegalTable, unsupported, geometryError, pathError, hb]
  cases hc : t.pll with
  | none => exact reportsExpected_of_retire (exec_synpll_noTable hl hb hc) (by rw [hv, hc]; rfl)
  | some c =>
    obtain ⟨hne, -⟩ := genOk_pll (genOk_of_bound ha hb) hc
    have he := List.getElem?_eq_getElem (pllSearch_lt (targetHz l.args) hne)
    exact reportsExpected_of_retire (exec_synpll_ok hl hb hc he) (by rw [hv, hc]; rfl)

theorem tunefifo_reportsExpected (hl : s.latch = some l) (hb : s.bound p = some t) :
    ReportsExpected (.tunefifo p) s l.args := by
  have hv : expectedVerdict (.tunefifo p) s l.args =
      if (t.fifoAt (fifoKey s.cfg.tierInclusive p l.args)).isNone then .error .unsupportedDevice else .ok := by
    simp [expectedVerdict_bound (i := .tunefifo p) rfl rfl hb, illegalTable, unsupported, geometryError, pathError, hb]
  cases hf : t.fifoAt (fifoKey s.cfg.tierInclusive p l.args) with
  | none => exact reportsExpected_of_retire (exec_tunefifo_noEntry hl hb hf) (by rw [hv, hf]; rfl)
  | some f => exact reportsExpected_of_retire (exec_tunefifo_ok hl hb hf) (by rw [hv, hf]; rfl)

theorem compscale_reportsExpected (hl : s.latch = some l) (hb : s.bound s.cfg.scalerPipe = some t) :
    ReportsExpected (.compscale sel) s l.args := by
  have hv : expectedVerdict (.compscale sel) s l.args =
      if badGeometry sel (srcSize l.args) (dstSize l.args) then .error .invalidGeometry else .ok := by
    simp [expectedVerdict_bound (i := .compscale sel) rfl rfl hb, illegalTable, unsupported, geometryError, pathError]
  cases hgeo : badGeometry sel (srcSize l.args) (dstSize l.args) with
  | true => exact reportsExpected_of_retire (exec_compscale_degenerate hl hb hgeo) (by rw [hv, hgeo]; rfl)
  | false => exact reportsExpected_of_retire (exec_compscale_ok hl hb hgeo) (by rw [hv, hgeo]; rfl)

theorem setpath_reportsExpected {v : PathSel} (hl : s.latch = some l) (hb : s.bound s.cfg.scalerPipe = some t) :
    ReportsExpected (.setpath v) s l.args := by
  have hv : expectedVerdict (.setpath v) s l.args = .ok := by
    simp [expectedVerdict_bound (i := .setpath v) rfl rfl hb, illegalTable, unsupported, geometryError, pathError]
  exact reportsExpected_of_retire (exec_setpath_ok hl hb) hv

/-- A downscale is a shrink with a factor on one axis (R247, R260). -/
theorem isDownscale_scalingOf {src dst : Size} : isDownscale (scalingOf sel src dst) =
    (sel == .shrink && (hFactor sel src dst != 0 || vFactor sel src dst != 0)) := by
  simp only [isDownscale, scalingOf, Bool.and_or_distrib_left]

theorem progscale_reportsExpected (hl : s.latch = some l) (hb : s.bound s.cfg.scalerPipe = some t) :
    ReportsExpected (.progscale sel) s l.args := by
  have hv : expectedVerdict (.progscale sel) s l.args =
      firstError [(badGeometry sel (srcSize l.args) (dstSize l.args), .invalidGeometry),
        (s.path == .src && !isDownscale (scalingOf sel (srcSize l.args) (dstSize l.args)), .pathMismatch)] := by
    simp [expectedVerdict_bound (i := .progscale sel) rfl rfl hb, illegalTable, unsupported, geometryError, pathError,
      isDownscale_scalingOf]
  cases hgeo : badGeometry sel (srcSize l.args) (dstSize l.args) with
  | true => exact reportsExpected_of_retire (exec_progscale_degenerate hl hb hgeo) (by simp [hv, hgeo])
  | false =>
    cases hdown : isDownscale (scalingOf sel (srcSize l.args) (dstSize l.args)) with
    | true =>
      exact reportsExpected_of_retire (exec_progscale_downscale hl hb hgeo hdown) (by simp [hv, hgeo, hdown])
    | false =>
      by_cases hpath : s.path = .src
      · exact reportsExpected_of_retire (exec_progscale_mismatch hl hb hgeo hdown hpath)
          (by simp [hv, hgeo, hdown, hpath])
      · exact reportsExpected_of_retire (exec_progscale_plain hl hb hgeo hdown hpath)
          (by simp [hv, hgeo, hdown, hpath])

/-! ## The statement -/

/-- Checks 3 to 6, whichever the command, once it has passed checks 1 and 2. -/
theorem bound_reportsExpected (ha : admitted s.cfg = true) (hl : s.latch = some l)
    (hfirst : illegalFirst s.cfg i = false) (hn : neededPipe s.cfg i = some p) (hb : s.bound p = some t) :
    ReportsExpected i s l.args := by
  cases i with
  | init q => cases hn
  | wrlit q imm => exact wrlit_reportsExpected hl (Option.some.inj hn ▸ hb)
  | wrval q imm => exact wrval_reportsExpected hl hfirst (Option.some.inj hn ▸ hb)
  | progtim q sel => exact progtim_reportsExpected hl hfirst (Option.some.inj hn ▸ hb)
  | synpll q => exact synpll_reportsExpected ha hl (Option.some.inj hn ▸ hb)
  | tunefifo q => exact tunefifo_reportsExpected hl (Option.some.inj hn ▸ hb)
  | compscale sel => exact compscale_reportsExpected hl (Option.some.inj hn ▸ hb)
  | setpath v => exact setpath_reportsExpected hl (Option.some.inj hn ▸ hb)
  | progscale sel => exact progscale_reportsExpected hl (Option.some.inj hn ▸ hb)

/-- A command that needs no pipe is an INIT (R161). -/
theorem eq_init_of_neededPipe_none {c : Cfg} (h : neededPipe c i = none) : ∃ p, i = .init p := by
  cases i with
  | init p => exact ⟨p, rfl⟩
  | _ => cases h

/-- Settles O16, check by check: the operands, the bound pipe, and then what the tables and the arguments decide. -/
theorem errorPriority : Obligations.ErrorPriority := by
  intro i s l ha hs hl
  cases hfirst : illegalFirst s.cfg i with
  | true => exact reportsExpected_of_retire (exec_illegalFirst hl hfirst) (expectedVerdict_illegalFirst hfirst)
  | false =>
    cases hn : neededPipe s.cfg i with
    | none =>
      obtain ⟨p, rfl⟩ := eq_init_of_neededPipe_none hn
      exact init_reportsExpected hl
    | some p =>
      obtain hg | ⟨t, hb⟩ := unbound_or_bound hs p
      · exact reportsExpected_of_retire (exec_unbound hl hfirst hn hg) (expectedVerdict_unbound hfirst hn hg)
      · exact bound_reportsExpected ha hl hfirst hn hb

end Sys2Proof.Machine
end

section
/-! SUPPORT. What a command depends on (60_exceptions R305): the bus operations take the trace along without reading it,
and two runs of one rule from states with the same latch, `gen`, path, configuration and device bytes stay in step. -/

namespace Sys2Proof.Machine

/-! ## Operations that do not read the trace (R52, R74) -/

/-- The bus with earlier events before its trace. -/
def Bus.after (es : List Event) (bus : Bus) : Bus := { bus with trace := es ++ bus.trace }

/-- A bus operation that does not read the trace: earlier events pass through it. -/
def TraceBlind (f : Bus → Bus) : Prop := ∀ es, Function.Commute f (Bus.after es)

variable {f g : Bus → Bus}

theorem traceBlind_id : TraceBlind id := fun _ => Function.Commute.id_left

theorem TraceBlind.comp (hf : TraceBlind f) (hg : TraceBlind g) : TraceBlind (g ∘ f) := fun es =>
  (hg es).comp_left (hf es)

theorem after_emit (es : List Event) (bus : Bus) (e : Event) : (bus.after es).emit e = (bus.emit e).after es := by
  simp [Bus.after, Bus.emit]

theorem traceBlind_devWrite (b : Bank) (o : Offset) (v : Byte) : TraceBlind fun bus => bus.devWrite b o v :=
  fun es bus => after_emit es (bus.poke b o v) _

theorem traceBlind_wait (n : Nat) : TraceBlind fun bus => bus.wait n := fun es bus => after_emit es bus _

/-- An RMW reads the device byte, not the trace (R133). -/
theorem traceBlind_devRmw (b : Bank) (o : Offset) (m v : Byte) : TraceBlind fun bus => bus.devRmw b o m v :=
  fun es bus => by
    have hread : (bus.after es).devRead b o = (bus.devRead b o).after es := after_emit es bus _
    calc (bus.after es).devRmw b o m v
      _ = ((bus.devRead b o).after es).devWrite b o (merge (bus.peek b o) m v) := by rw [← hread]; rfl
      _ = (bus.devRmw b o m v).after es := traceBlind_devWrite b o _ es _

theorem traceBlind_writeFrom (v : Nat) (l : FieldList) : ∀ cur, TraceBlind (writeFrom cur v l) := by
  induction l with
  | nil => exact fun _ => traceBlind_id
  | cons f fs ih => exact fun _ => (traceBlind_devRmw _ _ _ _).comp (ih _)

theorem traceBlind_writeValue (l : FieldList) (v : Nat) : TraceBlind (writeValue l v) := traceBlind_writeFrom v l 0

theorem traceBlind_writeLiteral (t : LitTable) : TraceBlind (writeLiteral t) := by
  induction t with
  | nil => exact traceBlind_id
  | cons c t ih => exact (traceBlind_devRmw _ _ _ _).comp ih

theorem traceBlind_writeLists (ws : List (FieldList × Nat)) : TraceBlind (writeLists ws) := by
  induction ws with
  | nil => exact traceBlind_id
  | cons w ws ih => exact (traceBlind_writeValue _ _).comp ih

theorem traceBlind_programTiming (t : GenTables) (p : Pipe) (v : Timing) : TraceBlind (programTiming t p v) := by
  rw [funext (programTiming_eq_writeLists t p v)]
  exact traceBlind_writeLists _

theorem traceBlind_writeDividers (code : Nat) (rs : List RegAddr) : ∀ i, TraceBlind (writeDividers code i rs) := by
  induction rs with
  | nil => exact fun _ => traceBlind_id
  | cons r rs ih => exact fun _ => (traceBlind_devWrite _ _ _).comp (ih _)

theorem traceBlind_setBit (a : BitAddr) (on : Bool) : TraceBlind (setBit a on) := traceBlind_devRmw _ _ _ _

theorem traceBlind_programPll (n : Nat) (p : Pipe) (code : Nat) (c : PllCfg) : TraceBlind (programPll n p code c) :=
  (traceBlind_setBit _ _).comp <| (traceBlind_setBit _ _).comp <| (traceBlind_writeDividers _ _ _).comp <|
    (traceBlind_setBit _ _).comp <| (traceBlind_setBit _ _).comp <| (traceBlind_wait n).comp (traceBlind_devRmw _ _ _ _)

theorem traceBlind_programFifo (ls : PerFifo SizedList) (c : FifoConsts) : TraceBlind (programFifo ls c) :=
  (traceBlind_writeValue _ _).comp <| (traceBlind_writeValue _ _).comp <| (traceBlind_writeValue _ _).comp
    (traceBlind_writeValue _ _)

theorem traceBlind_writeScale (c : ScalerCfg) (sel : ScaleSel) (sc : ScalingState) :
    TraceBlind (writeScale c sel sc) := by
  rw [funext (writeScale_eq_writeLists c sel sc)]
  exact traceBlind_writeLists _

theorem traceBlind_writePath (c : ScalerCfg) (v : PathSel) : TraceBlind (writePath c v) := traceBlind_writeValue _ _

theorem traceBlind_downscaleLoads (c : Cfg) (t : GenTables) (x : ArgRegs) : TraceBlind (downscaleLoads c t x) :=
  (traceBlind_writePath _ _).comp <| (traceBlind_programTiming _ _ _).comp <| (traceBlind_writePath _ _).comp <|
    (traceBlind_programTiming _ _ _).comp (traceBlind_writePath _ _)

/-- On buses with the same bytes, an operation that does not read the trace leaves the same bytes and appends the same
events. -/
theorem TraceBlind.sameEvents (hf : TraceBlind f) {b b' : Bus} (h : b'.dev = b.dev) :
    (f b').dev = (f b).dev ∧ ∃ es, (f b).trace = b.trace ++ es ∧ (f b').trace = b'.trace ++ es := by
  have hb : f b = (f ⟨b.dev, []⟩).after b.trace := by
    rw [← (hf b.trace).eq]
    simp [Bus.after]
  have hb' : f b' = (f ⟨b.dev, []⟩).after b'.trace := by
    rw [← (hf b'.trace).eq, ← h]
    simp [Bus.after]
  exact ⟨by rw [hb, hb']; rfl, (f ⟨b.dev, []⟩).trace, by rw [hb]; rfl, by rw [hb']; rfl⟩

/-! ## Two states that a rule cannot tell apart -/

/-- What R305 lets a command depend on, but for the latch. -/
structure SameSource (s s' : State) : Prop where
  gen : s'.gen = s.gen
  path : s'.path = s.path
  cfg : s'.cfg = s.cfg
  dev : s'.bus.dev = s.bus.dev

/-- A value of a run is the same in both, or both runs have kept their own. -/
def SameOrKept {α : Type} (f : State → α) (s s' u u' : State) : Prop := f u' = f u ∨ (f u = f s ∧ f u' = f s')

/-- Two runs, from `s` to `u` and from `s'` to `u'`, have done the same: what R305 fixes, with the same events. -/
structure InStep (s s' u u' : State) : Prop where
  gen : u'.gen = u.gen
  path : u'.path = u.path
  cfg : u'.cfg = u.cfg
  dev : u'.bus.dev = u.bus.dev
  events : ∃ es, u.bus.trace = s.bus.trace ++ es ∧ u'.bus.trace = s'.bus.trace ++ es
  scale : SameOrKept State.scale s s' u u'
  pll : SameOrKept (fun s => s.hr.pll) s s' u u'
  fifo : SameOrKept (fun s => s.hr.fifo) s s' u u'

variable {s s' u u' t : State} {p : Pipe} {i : Instr}

/-- Two states that a rule cannot tell apart are in step before it. -/
theorem SameSource.inStep (h : SameSource s s') : InStep s s' s s' :=
  ⟨h.gen, h.path, h.cfg, h.dev, ⟨[], by simp⟩, .inr ⟨rfl, rfl⟩, .inr ⟨rfl, rfl⟩, .inr ⟨rfl, rfl⟩⟩

theorem InStep.onBus (h : InStep s s' u u') (hf : TraceBlind f) : InStep s s' (u.onBus f) (u'.onBus f) := by
  obtain ⟨hdev, fs, htrace, htrace'⟩ := hf.sameEvents h.dev
  obtain ⟨es, hes, hes'⟩ := h.events
  exact { h with
    dev := hdev
    events := ⟨es ++ fs, by simp [htrace, hes], by simp [htrace', hes']⟩ }

theorem InStep.bindGen (h : InStep s s' u u') (p : Pipe) (g : Nat) : InStep s s' (u.bindGen p g) (u'.bindGen p g) :=
  { h with gen := congrArg (fun v => v.set p (some g)) h.gen }

theorem InStep.setPll (h : InStep s s' u u') (r : PllResult) : InStep s s' (u.setPll r) (u'.setPll r) :=
  { h with pll := .inl rfl }

theorem InStep.setFifo (h : InStep s s' u u') (r : PerFifo (BitVec 16)) : InStep s s' (u.setFifo r) (u'.setFifo r) :=
  { h with fifo := .inl rfl }

theorem InStep.setScale (h : InStep s s' u u') (sc : ScalingState) : InStep s s' (u.setScale sc) (u'.setScale sc) :=
  { h with scale := .inl rfl }

theorem InStep.setMirror (h : InStep s s' u u') (m : PathMirror) : InStep s s' (u.setMirror m) (u'.setMirror m) :=
  { h with path := rfl }

theorem InStep.retire (h : InStep s s' u u') (c : Option Instr) (v : Verdict) :
    InStep s s' (u.retire c v) (u'.retire c v) := { h with }

theorem InStep.loadDownscale (h : InStep s s' u u') (t : GenTables) (x : ArgRegs) :
    InStep s s' (loadDownscale t x u) (loadDownscale t x u') := by
  have hloads := (h.onBus (traceBlind_downscaleLoads u.cfg t x)).setMirror (mirrorOf .dst)
  unfold Machine.loadDownscale
  rwa [h.cfg]

/-! ## Rules that cannot tell two states apart -/

/-- Two outcomes of a rule: the same stop, or successes in step. -/
inductive SameRun (s s' : State) : Run → Run → Prop
  | ok {u u' : State} (h : InStep s s' u u') : SameRun s s' (.ok u) (.ok u')
  | stop (e : Stop) : SameRun s s' (.error e) (.error e)

theorem sameRun_ite {c : Prop} [Decidable c] {a b a' b' : Run} (ht : SameRun s s' a a') (hf : SameRun s s' b b') :
    SameRun s s' (if c then a else b) (if c then a' else b') := by
  split
  · exact ht
  · exact hf

/-- The NotInitialized check and the lookup of the tables read `gen` and the configuration (R161). -/
theorem SameSource.withTables (h : SameSource s s') {rule rule' : GenTables → Run}
    (hrule : ∀ t, SameRun s s' (rule t) (rule' t)) : SameRun s s' (withTables s p rule) (withTables s' p rule') := by
  unfold Machine.withTables State.tablesAt
  rw [h.gen, h.cfg]
  cases s.gen.get p with
  | none => exact .stop _
  | some g =>
    dsimp only
    cases s.cfg.gens[g]? with
    | none => exact .stop _
    | some t => exact hrule t

/-- Two commands whose rules cannot tell the states apart complete with the same verdict, in step (R304). -/
theorem runCommand_inStep {rule rule' : ArgRegs → Run} (hl : s'.latch = s.latch) (h : SameSource s s')
    (hrule : ∀ x, SameRun s s' (rule x) (rule' x)) (ht : runCommand i s rule = .next t) :
    ∃ t', runCommand i s' rule' = .next t' ∧ t'.hr.err = t.hr.err ∧ InStep s s' t t' := by
  obtain ⟨l, hlatch, hres⟩ := runCommand_next ht
  have hlatch' := hl.trans hlatch
  have hr := hrule l.args
  obtain ⟨u, hu, rfl⟩ | ⟨e, he, rfl⟩ := hres
  · rw [hu] at hr
    generalize hu' : rule' l.args = r' at hr
    cases hr with
    | ok hstep => exact ⟨_, runCommand_ok hlatch' hu', rfl, hstep.retire _ _⟩
  · rw [he] at hr
    generalize he' : rule' l.args = r' at hr
    cases hr with
    | stop => exact ⟨_, runCommand_raise hlatch' he', rfl, h.inStep.retire _ _⟩

/-! ## Every command -/

/-- A command completes with the same verdict, and in step, from two states that R305 lets it not tell apart. -/
theorem exec_inStep (hl : s'.latch = s.latch) (h : SameSource s s') (ht : exec i s = .next t) :
    ∃ t', exec i s' = .next t' ∧ t'.hr.err = t.hr.err ∧ InStep s s' t t' := by
  have hstart := h.inStep
  unfold exec at ht ⊢
  cases i with
  | init p =>
    refine runCommand_inStep hl h (fun x => ?_) ht
    rw [h.gen, h.cfg]
    cases s.gen.get p with
    | some _ => exact .stop _
    | none =>
      dsimp only
      cases s.cfg.resolveChip x.chipId with
      | none => exact .stop _
      | some g =>
        dsimp only
        cases s.gen.get p.other with
        | none => exact .ok (hstart.bindGen p g)
        | some g' => exact sameRun_ite (.ok (hstart.bindGen p g)) (.stop _)
  | wrlit p imm =>
    refine runCommand_inStep hl h (fun x => h.withTables fun tab => ?_) ht
    cases tab.lit[imm.toNat]? with
    | none => exact .stop _
    | some lit => exact .ok (hstart.onBus (traceBlind_writeLiteral lit))
  | wrval p imm =>
    refine runCommand_inStep hl h (fun x => ?_) ht
    cases ListSel.ofImm imm with
    | none => exact .stop _
    | some sel => exact h.withTables fun tab => .ok (hstart.onBus (traceBlind_writeValue _ _))
  | progtim p sel =>
    refine runCommand_inStep hl h (fun x => ?_) ht
    rw [h.cfg, h.path]
    exact sameRun_ite (.stop _) <| h.withTables fun tab =>
      sameRun_ite (.stop _) (.ok (hstart.onBus (traceBlind_programTiming _ _ _)))
  | synpll p =>
    refine runCommand_inStep hl h (fun x => h.withTables fun tab => ?_) ht
    rw [h.cfg]
    cases tab.pll with
    | none => exact .stop _
    | some c =>
      dsimp only
      cases c.table[pllSearch (targetHz x) c.table]? with
      | none => exact .stop _
      | some e => exact .ok ((hstart.onBus (traceBlind_programPll _ _ _ _)).setPll _)
  | tunefifo p =>
    refine runCommand_inStep hl h (fun x => h.withTables fun tab => ?_) ht
    rw [h.cfg]
    cases tab.fifoAt (fifoKey s.cfg.tierInclusive p x) with
    | none => exact .stop _
    | some c => exact .ok ((hstart.onBus (traceBlind_programFifo _ _)).setFifo _)
  | compscale sel =>
    refine runCommand_inStep hl h (fun x => ?_) ht
    rw [h.cfg]
    exact h.withTables fun tab =>
      sameRun_ite (.stop _) (.ok ((hstart.onBus (traceBlind_writeScale _ _ _)).setScale _))
  | setpath v =>
    refine runCommand_inStep hl h (fun x => ?_) ht
    rw [h.cfg]
    exact h.withTables fun tab => .ok ((hstart.onBus (traceBlind_writePath _ _)).setMirror _)
  | progscale sel =>
    refine runCommand_inStep hl h (fun x => ?_) ht
    rw [h.cfg, h.path]
    refine h.withTables fun tab => sameRun_ite (.stop _) (sameRun_ite (.stop _) (.ok (InStep.setScale ?_ _)))
    have hscale := hstart.onBus (traceBlind_writeScale tab.scaler sel (scalingOf sel (srcSize x) (dstSize x)))
    split
    · exact hscale.loadDownscale tab x
    · exact hscale.onBus (traceBlind_programTiming _ _ _)

/-- Settles O17: the rules stay in step from the two states. -/
theorem outcomeDependsOnLatchAndDevice : Obligations.OutcomeDependsOnLatchAndDevice := by
  intro i s s' t hl hgen hpath hcfg hdev ht
  obtain ⟨t', ht', herr, hstep⟩ := exec_inStep hl.symm ⟨hgen.symm, hpath.symm, hcfg.symm, hdev.symm⟩ ht
  obtain ⟨es, htrace, htrace'⟩ := hstep.events
  exact ⟨t', es, ht', herr, hstep.gen, hstep.path, hstep.dev, htrace, htrace', hstep.scale, hstep.pll, hstep.fifo⟩

end Sys2Proof.Machine
end

section
/-! SUPPORT. What reset and an ExtDevWrite do in each phase (70_reset R330, R331, R343), and the statements about them. -/

namespace Sys2Proof.Machine

variable {s : State}

theorem resetAct_idle (hp : s.phase = .idle) : resetAct s = .next (resetState s) := by simp [resetAct, hp]

theorem resetAct_busy (hp : s.phase = .busy) : resetAct s = .fault .resetWhileBusy := by simp [resetAct, hp]

theorem extDevWrite_idle {b : Bank} (o : Offset) (v : Byte) (hp : s.phase = .idle)
    (hb : s.cfg.banks.contains b = true) : extDevWrite s b o v = .next (s.onBus fun bus => bus.poke b o v) := by
  unfold extDevWrite
  rw [hp]
  exact if_pos hb

theorem extDevWrite_busy (b : Bank) (o : Offset) (v : Byte) (hp : s.phase = .busy) :
    extDevWrite s b o v = .fault .extDevWriteWhileBusy := by
  simp [extDevWrite, hp]

/-- A stored byte leaves every other device register as it was. -/
theorem poke_keepsOutside (bus : Bus) (b : Bank) (o : Offset) (v : Byte) :
    KeepsOutside [⟨b, o⟩] bus (bus.poke b o v) := fun b' o' h =>
  peek_poke_other bus b' b o' o v (by simpa using h)

/-! ## The statements -/

/-- Settles O56: the step is the reset act, whose registers `readReg_resetState` reads. -/
theorem resetRestoresOwnState : Obligations.ResetRestoresOwnState := by
  intro s rest ha hin
  refine ⟨fun hp => ⟨_, (step_cons ha hin).trans (resetAct_idle hp), readReg_resetState _, rfl, rfl,
    fun p => by cases p <;> rfl, rfl, rfl, rfl, rfl⟩, fun hp => (step_cons ha hin).trans (resetAct_busy hp)⟩

/-- Settles O58: the step is the ExtDevWrite, which stores one byte in IDLE and stops in BUSY. -/
theorem extDevWriteOnlyInIdle : Obligations.ExtDevWriteOnlyInIdle := by
  intro s b o v rest ha hin
  refine ⟨fun hp hb => ?idle, fun hp => ?busy⟩
  case idle =>
    exact ⟨_, (step_cons ha hin).trans (extDevWrite_idle o v hp hb), peek_poke_same s.bus b o v,
      poke_keepsOutside s.bus b o v, rfl, rfl⟩
  case busy => exact (step_cons ha hin).trans (extDevWrite_busy b o v hp)

end Sys2Proof.Machine
end

section
/-! SUPPORT. The live argument registers and the running command (70_reset R342): two runs in step from states that differ
in these registers alone end in states that do, and the statement about it. -/

namespace Sys2Proof.Machine

variable {s t t' : State} {i : Instr} {v : Verdict}

/-- The state with other live argument registers (R35). -/
def State.withArgs (s : State) (x : ArgRegs) : State := { s with hr := { s.hr with args := x } }

/-- A value that is the same in both runs, or kept by both, is the same where they started with the same. -/
theorem SameOrKept.eq {α : Type} {f : State → α} {s s' u u' : State} (h : SameOrKept f s s' u u')
    (hf : f s' = f s) : f u' = f u := by
  obtain h | ⟨hu, hu'⟩ := h
  · exact h
  · rw [hu, hu', hf]

/-- The bus of two runs in step from the same bus is the same, trace included. -/
theorem InStep.bus_eq {s s' u u' : State} (h : InStep s s' u u') (hbus : s'.bus = s.bus) : u'.bus = u.bus := by
  obtain ⟨es, hes, hes'⟩ := h.events
  calc u'.bus
    _ = ⟨u.bus.dev, s'.bus.trace ++ es⟩ := by rw [← h.dev, ← hes']
    _ = u.bus := by rw [hbus, ← hes]

/-- Host registers that agree in all but the arguments. -/
theorem HostRegs.eq_withArgs {r r' : HostRegs} {x : ArgRegs} (hcmd : r'.cmd = r.cmd) (hdone : r'.done = r.done)
    (hovr : r'.ovr = r.ovr) (herr : r'.err = r.err) (hargs : r'.args = x) (hpll : r'.pll = r.pll)
    (hfifo : r'.fifo = r.fifo) : r' = { r with args := x } := by
  subst hargs
  rw [← hcmd, ← hdone, ← hovr, ← herr, ← hpll, ← hfifo]

/-- Two completions in step, the one begun with other live arguments, differ in these alone: R305 fixes the results, and
R304 the rest. -/
theorem InStep.eq_withArgs {x : ArgRegs} (h : InStep s (s.withArgs x) t t') (ht : Finished i v s t)
    (ht' : Finished i v (s.withArgs x) t') : t' = t.withArgs x := by
  obtain ⟨hphase, hdone, herr, hhistory, -, hcmd, hovr, -, hlatch, hinputs, hreplies⟩ := ht
  obtain ⟨hphase', hdone', herr', hhistory', -, hcmd', hovr', hargs', hlatch', hinputs', hreplies'⟩ := ht'
  have hhr : t'.hr = { t.hr with args := x } :=
    HostRegs.eq_withArgs (hcmd'.trans hcmd.symm) (hdone'.trans hdone.symm) (hovr'.trans hovr.symm)
      (herr'.trans herr.symm) hargs' (h.pll.eq rfl) (h.fifo.eq rfl)
  calc t'
    _ = ⟨t'.cfg, t'.hr, t'.phase, t'.latch, t'.gen, t'.scale, t'.path, t'.bus, t'.inputs, t'.replies, t'.history⟩ := rfl
    _ = ⟨t.cfg, { t.hr with args := x }, t.phase, t.latch, t.gen, t.scale, t.path, t.bus, t.inputs, t.replies,
        t.history⟩ := by
      rw [h.cfg, hhr, hphase'.trans hphase.symm, hlatch'.trans hlatch.symm, h.gen, h.scale.eq rfl, h.path,
        h.bus_eq rfl, hinputs'.trans hinputs.symm, hreplies'.trans hreplies.symm, hhistory'.trans hhistory.symm]

/-- A command does the same whatever the live arguments are (R342). -/
theorem exec_withArgs (x : ArgRegs) (h : exec i s = .next t) : exec i (s.withArgs x) = .next (t.withArgs x) := by
  obtain ⟨t', ht', herr, hstep⟩ := exec_inStep (s := s) (s' := s.withArgs x) rfl ⟨rfl, rfl, rfl, rfl⟩ h
  have hfin := completionFrame i s t h
  have hfin' := completionFrame i _ t' ht'
  rw [herr] at hfin'
  rw [ht', hstep.eq_withArgs hfin hfin']

/-- Settles O18: a legal word's command by `exec_withArgs`, and an illegal word completes by the STATUS update alone. -/
theorem argumentWritesWhileBusyAreSafe : Obligations.ArgumentWritesWhileBusyAreSafe := by
  intro s t x h
  change execute (s.withArgs x) = .next (t.withArgs x)
  cases hl : s.latch with
  | none => simp [execute, hl] at h
  | some l =>
    have hl' : (s.withArgs x).latch = some l := hl
    cases hd : decode l.word with
    | ok i =>
      simp only [execute, hl, hl', hd] at h ⊢
      exact exec_withArgs x h
    | error e =>
      simp only [execute, hl, hl', hd] at h ⊢
      cases h
      rfl

end Sys2Proof.Machine
end

section
/-! SUPPORT. Commands issued one after another (30_encoding R111): what a sequence of successful commands of the scaler's
pipe leaves, extended command by command, and the statement about the manual downscale (70_reset R347). -/

namespace Sys2Proof.Machine

variable {s u a b : State} {t : GenTables} {i : Instr} {is js : List Instr} {f : Bus → Bus} {m : PathMirror}
  {sc : ScalingState}

/-- A command that succeeds where it is accepted is followed by the rest of the list (R37). -/
theorem issueAll_cons (h : exec i (s.accept (encode i)) = .next u) : issueAll s (i :: is) = issueAll u is := by
  simp [issueAll, h]

/-- The commands of a list succeed one after another from `s` to `u`: with the bus operation `f`, the path mirror at `m`
and the scale mirror at `sc` in the end, and every other result and the argument registers as before. -/
structure Issues (s : State) (is : List Instr) (f : Bus → Bus) (m : PathMirror) (sc : ScalingState) (u : State) :
    Prop where
  run : ∀ js, issueAll s (is ++ js) = issueAll u js
  bus : u.bus = f s.bus
  path : u.path = m
  scale : u.scale = sc
  gen : u.gen = s.gen
  results : SameHostResults s u
  args : u.hr.args = s.hr.args
  cfg : u.cfg = s.cfg
  err : u.hr.err = .ok
  phase : u.phase = .idle

/-- Two lists with the same bus operation and the same mirrors in the end differ in nothing that R347 compares. -/
theorem Issues.agree (ha : Issues s is f m sc a) (hb : Issues s js f m sc b) : a.bus = b.bus ∧ SameResults b a ∧
    a.hr.err = b.hr.err ∧ a.hr.args = b.hr.args ∧ a.cfg = b.cfg ∧ a.phase = b.phase := by
  obtain ⟨hpll, hfifo⟩ := ha.results
  obtain ⟨hpll', hfifo'⟩ := hb.results
  exact ⟨ha.bus.trans hb.bus.symm,
    ⟨⟨hpll.trans hpll'.symm, hfifo.trans hfifo'.symm⟩, ha.gen.trans hb.gen.symm, ha.scale.trans hb.scale.symm,
      ha.path.trans hb.path.symm⟩,
    ha.err.trans hb.err.symm, ha.args.trans hb.args.symm, ha.cfg.trans hb.cfg.symm, ha.phase.trans hb.phase.symm⟩

/-- The scaler pipe stays bound to its tables. -/
theorem Issues.bound (h : Issues s is f m sc u) (hb : s.bound s.cfg.scalerPipe = some t) :
    u.bound u.cfg.scalerPipe = some t := by
  rwa [State.bound, h.gen, h.cfg]

/-! ## The scaler's commands (R171, R246, R250, R260) -/

theorem issues_compscale {sel : ScaleSel} (hb : s.bound s.cfg.scalerPipe = some t)
    (hgeo : badGeometry sel (srcSize s.hr.args) (dstSize s.hr.args) = false) :
    ∃ u, Issues s [.compscale sel] (writeScale t.scaler sel (scalingOf sel (srcSize s.hr.args) (dstSize s.hr.args)))
      s.path (scalingOf sel (srcSize s.hr.args) (dstSize s.hr.args)) u := by
  have hexec := exec_compscale_ok (s := s.accept (encode (.compscale sel))) (l := ⟨_, s.hr.args⟩) rfl hb hgeo
  exact ⟨_, fun _ => issueAll_cons hexec, rfl, rfl, rfl, rfl, ⟨rfl, rfl⟩, rfl, rfl, rfl, rfl⟩

theorem issues_progscale_downscale {sel : ScaleSel} (hb : s.bound s.cfg.scalerPipe = some t)
    (hgeo : badGeometry sel (srcSize s.hr.args) (dstSize s.hr.args) = false)
    (hdown : isDownscale (scalingOf sel (srcSize s.hr.args) (dstSize s.hr.args)) = true) :
    ∃ u, Issues s [.progscale sel] (downscaleLoads s.cfg t s.hr.args ∘
      writeScale t.scaler sel (scalingOf sel (srcSize s.hr.args) (dstSize s.hr.args)))
      .dst (scalingOf sel (srcSize s.hr.args) (dstSize s.hr.args)) u := by
  have hexec := exec_progscale_downscale (s := s.accept (encode (.progscale sel))) (l := ⟨_, s.hr.args⟩) rfl hb hgeo
    hdown
  exact ⟨_, fun _ => issueAll_cons hexec, rfl, rfl, rfl, rfl, ⟨rfl, rfl⟩, rfl, rfl, rfl, rfl⟩

/-- One more command that succeeds after a list. -/
theorem Issues.run_append {u' : State} (h : Issues s is f m sc u) (hexec : exec i (u.accept (encode i)) = .next u')
    (js : List Instr) : issueAll s (is ++ [i] ++ js) = issueAll u' js := by
  rw [List.append_assoc, h.run]
  exact issueAll_cons hexec

theorem Issues.setpath (h : Issues s is f m sc u) (hb : s.bound s.cfg.scalerPipe = some t) (v : PathSel) :
    ∃ u', Issues s (is ++ [.setpath v]) (writePath t.scaler v ∘ f) (mirrorOf v) sc u' := by
  have hexec := exec_setpath_ok (s := u.accept (encode (.setpath v))) (v := v) rfl (h.bound hb)
  exact ⟨_, h.run_append hexec, congrArg (writePath t.scaler v) h.bus, rfl, h.scale, h.gen, h.results,
    h.args, h.cfg, rfl, rfl⟩

/-- A timing load of the scaler pipe, which the path mirror has to admit (R175). -/
theorem Issues.progtim {sel : TimingSel} (h : Issues s is f m sc u) (hb : s.bound s.cfg.scalerPipe = some t)
    (hpath : sel = .synth ↔ m = .src) :
    ∃ u', Issues s (is ++ [.progtim s.cfg.scalerPipe sel])
      (programTiming t s.cfg.scalerPipe (progtimTiming s.cfg s.hr.args sel) ∘ f) m sc u' := by
  have hexec := exec_progtim_ok (s := u.accept (encode (.progtim u.cfg.scalerPipe sel))) (l := ⟨_, u.hr.args⟩) rfl
    (h.bound hb) (fun _ => rfl) (fun _ => h.path ▸ hpath)
  simp only [State.accept_cfg, h.cfg, h.args] at hexec
  exact ⟨_, h.run_append hexec, congrArg (programTiming t _ _) h.bus, h.path, h.scale, h.gen, h.results,
    h.args, h.cfg, rfl, rfl⟩

/-! ## The statement -/

/-- Settles O48: the sequence is the parts of the downscale one by one, the same bus operations in the same order, and
each SETPATH moves the path to where the next timing load needs it. -/
theorem manualDownscaleEqualsProgscale : Obligations.ManualDownscaleEqualsProgscale := by
  intro s t hb hgeo hdown
  obtain ⟨_, hscale⟩ := issues_compscale hb hgeo
  obtain ⟨_, hdst⟩ := hscale.setpath hb .dst
  obtain ⟨_, hmode⟩ := hdst.progtim (sel := .mode) hb (by decide)
  obtain ⟨_, hsrc⟩ := hmode.setpath hb .src
  obtain ⟨_, hsynth⟩ := hsrc.progtim (sel := .synth) hb (by decide)
  obtain ⟨a, ha⟩ := hsynth.setpath hb .dst
  obtain ⟨b, hprogscale⟩ := issues_progscale_downscale hb hgeo hdown
  exact ⟨a, b, ha.run [], hprogscale.run [], ha.agree hprogscale⟩

end Sys2Proof.Machine
end

section
/-! SUPPORT. Each duty of the Host (70_reset R345) after one more command, and the statement about when a pipe is ready. -/

namespace Sys2Proof.Machine

variable {s t : State} {p : Pipe} {i : Instr} {cs : List Completion}

/-- Every command that completes is the newest of the completed commands (log 17). -/
theorem exec_completed (h : exec i s = .next t) : t.completed = ⟨some i, t.hr.err⟩ :: s.completed := by
  obtain ⟨-, -, -, hhistory, -⟩ := completionFrame i s t h
  simp [State.completed, hhistory]

theorem exec_settled (h : exec i s = .next t) : t.settled = true := by
  obtain ⟨hphase, -⟩ := completionFrame i s t h
  simp [State.settled, hphase]

theorem exec_cfg (h : exec i s = .next t) : t.cfg = s.cfg := by
  obtain ⟨-, -, -, -, hcfg, -⟩ := completionFrame i s t h
  exact hcfg

/-- Whether a completion is of one given command. -/
theorem Completion.is_beq_iff {c : Completion} : c.is (· == i) = true ↔ c.cmd = some i := by
  simp [Completion.is, Option.any_eq_true]

/-! ## Duties 1 and 2 -/

/-- Right after a successful timing command the timing is as duty 1 asks. -/
theorem timingDuty_of_loadsTiming (hc : t.completed = ⟨some i, .ok⟩ :: cs) (hi : loadsTiming t.cfg p i = true) :
    t.timingDuty p = true := by
  simp [State.timingDuty, hc, hi, afterLast_cons]

/-- Duty 2 speaks of the scaler pipe alone. -/
theorem pathDuty_of_ne_scalerPipe (hp : p ≠ s.cfg.scalerPipe) : s.pathDuty p = true := by
  simp [State.pathDuty, hp]

/-- A successful PROGSCALE ends at path DST, or without a downscale (R260). -/
theorem pathDuty_of_progscale {sel : ScaleSel} (h : exec (.progscale sel) s = .next t) (herr : t.hr.err = .ok)
    (p : Pipe) : t.pathDuty p = true := by
  unfold exec at h
  obtain ⟨l, -, ⟨e, rfl⟩ | ⟨g, tab, sc, s1, -, -, -, -, -, ⟨-, rfl⟩ | ⟨hdown, -, rfl⟩⟩⟩ := execProgscale_next h
  · cases herr
  · simp [State.pathDuty]
  · simp [State.pathDuty, hdown]

/-! ## Duty 3 -/

/-- With no UnsupportedDevice among the completed commands duty 3 asks for nothing. -/
theorem supportDuty_of_none (h : ∀ c ∈ s.completed, c.unsupportedOn s.cfg p = false) : s.supportDuty p = true := by
  have hnone : s.completed.any (Completion.unsupportedOn s.cfg p) = false := by simpa using h
  simp [State.supportDuty, hnone]

/-- No timing command is a SYNPLL or a TUNEFIFO. -/
theorem beq_pll_fifo_of_loadsTiming {c : Cfg} (hi : loadsTiming c p i = true) :
    (i == .synpll p) = false ∧ (i == .tunefifo p) = false := by
  cases i with
  | synpll q => cases hi
  | tunefifo q => cases hi
  | _ => exact ⟨by simp, by simp⟩

/-- A successful timing command keeps a mode-set. -/
theorem modeSetIn_cons {c : Cfg} {all : List Completion} (hi : loadsTiming c p i = true)
    (h : modeSetIn c p all cs = true) : modeSetIn c p (⟨some i, .ok⟩ :: all) (⟨some i, .ok⟩ :: cs) = true := by
  obtain ⟨hpll, hfifo⟩ := beq_pll_fifo_of_loadsTiming hi
  simp only [modeSetIn, Bool.and_eq_true] at h
  obtain ⟨-, h⟩ := h
  simpa [modeSetIn, hi, hpll, hfifo] using h

/-- A successful timing command keeps duty 3. -/
theorem supportDuty_of_loadsTiming (hc : t.completed = ⟨some i, .ok⟩ :: s.completed) (hcfg : t.cfg = s.cfg)
    (hi : loadsTiming s.cfg p i = true) (h : s.supportDuty p = true) : t.supportDuty p = true := by
  simp only [State.supportDuty, Bool.or_eq_true] at h
  obtain hnone | hset := h
  · exact supportDuty_of_none (by simpa [hc, hcfg] using hnone)
  · have hset' := modeSetIn_cons hi hset
    simp [State.supportDuty, hc, hcfg, afterLast_cons, hset']

/-- One command is no mode-set of a pipe that uses TUNEFIFO: it does not load the timing and tune the FIFO both. -/
theorem modeSetIn_singleton {c : Cfg} {all : List Completion} {v : Verdict}
    (hused : all.any (Completion.is (· == .tunefifo p)) = true) : modeSetIn c p all [⟨some i, v⟩] = false := by
  cases hi : loadsTiming c p i with
  | false => simp [modeSetIn, hi]
  | true =>
    obtain ⟨-, hfifo⟩ := beq_pll_fifo_of_loadsTiming hi
    simp [modeSetIn, hused, hfifo]

/-- One command after a TUNEFIFO of the pipe was UnsupportedDevice duty 3 is not fulfilled. -/
theorem supportDuty_after_unsupported {v : Verdict}
    (hc : t.completed = ⟨some i, v⟩ :: ⟨some (.tunefifo p), .error .unsupportedDevice⟩ :: cs) :
    t.supportDuty p = false := by
  have hused : t.completed.any (Completion.is (· == .tunefifo p)) = true := by simp [hc]
  have hany : t.completed.any (Completion.unsupportedOn t.cfg p) = true := by simp [hc, onPipe]
  have hset : modeSetIn t.cfg p t.completed (afterLast (Completion.unsupportedOn t.cfg p) t.completed) = false := by
    cases hd : Completion.unsupportedOn t.cfg p ⟨some i, v⟩ with
    | true =>
      rw [hc, afterLast_cons, if_pos hd]
      rfl
    | false =>
      have hlast : afterLast (Completion.unsupportedOn t.cfg p) t.completed = [⟨some i, v⟩] := by
        simp [hc, afterLast_cons, hd, onPipe]
      rw [hlast]
      exact modeSetIn_singleton hused
  simp [State.supportDuty, hany, hset]

/-! ## Duty 4 -/

/-- With no SYNPLL of the pipe among the completed commands duty 4 asks for nothing. -/
theorem pllDuty_of_none (h : ∀ c ∈ s.completed, c.cmd ≠ some (.synpll p)) : s.pllDuty p = true := by
  have hnone : s.completed.any (Completion.is (· == .synpll p)) = false :=
    List.any_eq_false.2 fun c hmem => mt Completion.is_beq_iff.1 (h c hmem)
  simp [State.pllDuty, hnone]

/-- A command that is neither a PROGTIM nor a SYNPLL of the pipe leaves duty 4 as it was. -/
theorem pllDuty_cons {v : Verdict} (hc : t.completed = ⟨some i, v⟩ :: s.completed) (hi : progtimOf p i = false)
    (hpll : (i == .synpll p) = false) : t.pllDuty p = s.pllDuty p := by
  simp [State.pllDuty, hc, hi, hpll, afterLast_cons]

/-- Right after a PROGTIM of a pipe that uses SYNPLL duty 4 is not fulfilled. -/
theorem pllDuty_after_progtim {v : Verdict} (hc : t.completed = ⟨some i, v⟩ :: cs) (hi : progtimOf p i = true)
    (hused : ∃ c ∈ cs, c.cmd = some (.synpll p)) : t.pllDuty p = false := by
  obtain ⟨c, hmem, hcmd⟩ := hused
  have hany : t.completed.any (Completion.is (· == .synpll p)) = true :=
    List.any_eq_true.2 ⟨c, hc ▸ List.mem_cons_of_mem _ hmem, Completion.is_beq_iff.2 hcmd⟩
  have hlast : afterLast (Completion.is (progtimOf p)) t.completed = [] := by simp [hc, afterLast_cons, hi]
  simp [State.pllDuty, hany, hlast]

/-! ## The statement -/

theorem not_ready_of_supportDuty (h : s.supportDuty p = false) : s.readyToEnable p = false := by
  simp [State.readyToEnable, h]

theorem not_ready_of_pllDuty (h : s.pllDuty p = false) : s.readyToEnable p = false := by
  simp [State.readyToEnable, h]

/-- A successful PROGTIM MODE of a pipe without the scaler, where nothing before it asks for more (R345). -/
theorem ready_after_progtim (h : exec (.progtim p .mode) s = .next t) (herr : t.hr.err = .ok)
    (hp : p ≠ s.cfg.scalerPipe)
    (hs : ∀ c ∈ s.history, c.cmd ≠ some (.synpll p) ∧ c.unsupportedOn s.cfg p = false) :
    t.readyToEnable p = true := by
  have hcfg := exec_cfg h
  have hc := herr ▸ exec_completed h
  have hs' : ∀ c ∈ s.completed, c.cmd ≠ some (.synpll p) ∧ c.unsupportedOn s.cfg p = false := fun c hmem =>
    hs c (List.mem_reverse.1 hmem)
  refine (t.readyToEnable_iff p).2 ⟨exec_settled h, timingDuty_of_loadsTiming hc (by simp [loadsTiming]),
    pathDuty_of_ne_scalerPipe (hcfg ▸ hp), supportDuty_of_none ?support, pllDuty_of_none ?pll⟩
  case support =>
    rw [hc, hcfg, List.forall_mem_cons]
    exact ⟨by simp, fun c hmem => (hs' c hmem).2⟩
  case pll =>
    rw [hc, List.forall_mem_cons]
    exact ⟨by simp, fun c hmem => (hs' c hmem).1⟩

/-- A successful PROGSCALE keeps the scaler's pipe ready (R345). -/
theorem ready_after_progscale {sel : ScaleSel} {w : Word} (h : exec (.progscale sel) (s.accept w) = .next t)
    (herr : t.hr.err = .ok) (hs : s.readyToEnable s.cfg.scalerPipe = true) :
    t.readyToEnable s.cfg.scalerPipe = true := by
  have hcfg : t.cfg = s.cfg := exec_cfg (s := s.accept w) h
  have hc : t.completed = ⟨some (.progscale sel), .ok⟩ :: s.completed :=
    herr ▸ exec_completed (s := s.accept w) h
  have hload : loadsTiming s.cfg s.cfg.scalerPipe (.progscale sel) = true := by simp [loadsTiming]
  obtain ⟨-, -, -, hsupport, hpll⟩ := (s.readyToEnable_iff _).1 hs
  exact (t.readyToEnable_iff _).2 ⟨exec_settled h, timingDuty_of_loadsTiming hc (hcfg ▸ hload),
    pathDuty_of_progscale h herr _, supportDuty_of_loadsTiming hc hcfg hload hsupport,
    (pllDuty_cons hc rfl rfl).trans hpll⟩

/-- Settles O59: BUSY is not settled, and after a command each duty is decided by its lemma above. -/
theorem readyAfterModeSet : Obligations.ReadyAfterModeSet := by
  refine ⟨fun s p hp => ?busy, fun s t p i h => ⟨?progtim, ?progscale, ?unsupported, ?synpll⟩⟩
  case busy => simp [State.readyToEnable, State.settled, hp]
  case progtim =>
    rintro rfl herr hp hs
    exact ready_after_progtim h herr hp hs
  case progscale =>
    rintro sel s₀ w rfl herr rfl rfl hs
    exact ready_after_progscale (s := s₀) h herr hs
  case unsupported =>
    intro cs hs
    have hs' : s.completed = ⟨some (.tunefifo p), .error .unsupportedDevice⟩ :: cs.reverse := by
      simp [State.completed, hs]
    exact not_ready_of_supportDuty (supportDuty_after_unsupported (hs' ▸ exec_completed h))
  case synpll =>
    rintro sel rfl ⟨c, hmem, hcmd⟩
    exact not_ready_of_pllDuty (pllDuty_after_progtim (exec_completed h) (by simp [progtimOf])
      ⟨c, List.mem_reverse.2 hmem, hcmd⟩)

end Sys2Proof.Machine
end
